-- ==== Sys2Proof/Word.lean ====
section
/-! DEFINITION. Word.lean: the widths of the machine's values (00_scope.md R4: XLEN = 24; 20_memory.md R16: the
addressable unit is the 8-bit byte; 30_encoding.md R34: register nibbles). -/

namespace Sys2Proof

/-- A register or a memory word: 24 bits (10_state.md R5, 00_scope.md R4 `XLEN`). -/
abbrev Word := BitVec 24

/-- One memory cell: 8 bits (10_state.md R12). -/
abbrev Byte := BitVec 8

/-- A register-operand code or shift count of format 2 (30_encoding.md R34). -/
abbrev Nibble := BitVec 4

end Sys2Proof
end

