-- ==== Sys2Proof/Config.lean ====
section
/-! DEFINITION. Config.lean: the sizes an instance of the core fixes at construction (00_scope.md R4). -/

namespace Sys2Proof.Config

/-- `WORD_BYTES`: bytes per word (00_scope.md R4). -/
abbrev wordBytes : Nat := 3

/-- The largest `MEM_WORDS` (00_scope.md R4, decision D15): every in-bounds byte address then fits in 24 bits.
Log entry 15. -/
abbrev maxMemWords : Nat := 5592405

/-- The `MEM_WORDS` of `State.reset`. DESIGN CHOICE, unsafe (log entry 15): the spec leaves `MEM_WORDS` open; the
model's reset state has the largest memory the spec permits. `construct` builds any other size. -/
abbrev resetMemWords : Nat := maxMemWords

end Sys2Proof.Config
end

