-- ==== Sys2Proof/Syntax.lean ====
section
/-! DEFINITION. Syntax.lean: the instructions, as the decoder's descriptor gives them (30_encoding.md R30 to R39). One
constructor per opcode of spec/opcode_table.json (64 mnemonics); a mnemonic's two rows, format 3 and format 4, are that
constructor applied to the two forms of `MemRef` (one opcode, one handler: 30_encoding.md R39, 40_execution_cycle.md R43). -/

namespace Sys2Proof

/-- The flags `n i x b p` of the format-3/4 group (30_encoding.md R35). The sixth flag `e` is the choice between the two
forms of `MemRef`. -/
structure AddrFlags where
  /-- indirect flag, bit 1 of byte 1 -/
  n : Bool
  /-- immediate flag, bit 0 of byte 1 -/
  i : Bool
  /-- indexed flag, bit 7 of byte 2 -/
  x : Bool
  /-- base-relative flag, bit 6 of byte 2 -/
  b : Bool
  /-- pc-relative flag, bit 5 of byte 2 -/
  p : Bool
deriving DecidableEq, Repr

/-- The operand fields of a format-3/4 instruction (30_encoding.md R35 to R37). -/
inductive MemRef where
  /-- Format 3 (`e = 0`): the displacement `D.disp`, the 12-bit field sign-extended by the decoder (R36). -/
  | format3 (flags : AddrFlags) (disp : Int)
  /-- Format 4 (`e = 1`): the unsigned 20-bit address field (R37). -/
  | format4 (flags : AddrFlags) (addr : BitVec 20)
deriving DecidableEq, Repr

/-- The instructions: every opcode of the opcode map (30_encoding.md R39), in the order of spec/opcode_table.json. -/
inductive Instr where
  /-- LDA, load accumulator; opcode 0x00, R56. -/
  | lda (m : MemRef)
  /-- LDX, load index register; opcode 0x04, R57. -/
  | ldx (m : MemRef)
  /-- LDL, load link register; opcode 0x08, R58. -/
  | ldl (m : MemRef)
  /-- STA, store accumulator; opcode 0x0C, R62. -/
  | sta (m : MemRef)
  /-- STX, store index register; opcode 0x10, R63. -/
  | stx (m : MemRef)
  /-- STL, store link register; opcode 0x14, R64. -/
  | stl (m : MemRef)
  /-- ADD, add to accumulator; opcode 0x18, R70. -/
  | add (m : MemRef)
  /-- SUB, subtract from accumulator; opcode 0x1C, R71. -/
  | sub (m : MemRef)
  /-- MUL, multiply accumulator; opcode 0x20, R72. -/
  | mul (m : MemRef)
  /-- DIV, divide accumulator; opcode 0x24, R73. -/
  | div (m : MemRef)
  /-- COMP, compare accumulator; opcode 0x28, R74. -/
  | comp (m : MemRef)
  /-- TIX, increment index register and test; opcode 0x2C, R77. -/
  | tix (m : MemRef)
  /-- JEQ, branch if equal; opcode 0x30, R79. -/
  | jeq (m : MemRef)
  /-- JGT, branch if greater; opcode 0x34, R80. -/
  | jgt (m : MemRef)
  /-- JLT, branch if less; opcode 0x38, R81. -/
  | jlt (m : MemRef)
  /-- J, unconditional branch; opcode 0x3C, R78. -/
  | j (m : MemRef)
  /-- AND, bitwise and; opcode 0x40, R75. -/
  | and (m : MemRef)
  /-- OR, bitwise or; opcode 0x44, R76. -/
  | or (m : MemRef)
  /-- JSUB, subroutine call; opcode 0x48, R82. -/
  | jsub (m : MemRef)
  /-- RSUB, subroutine return; opcode 0x4C, R83. -/
  | rsub (m : MemRef)
  /-- LDCH, load character; opcode 0x50, R68. -/
  | ldch (m : MemRef)
  /-- STCH, store character; opcode 0x54, R69. -/
  | stch (m : MemRef)
  /-- LDB, load base register; opcode 0x68, R59. -/
  | ldb (m : MemRef)
  /-- LDS, load register S; opcode 0x6C, R60. -/
  | lds (m : MemRef)
  /-- LDT, load register T; opcode 0x74, R61. -/
  | ldt (m : MemRef)
  /-- STB, store base register; opcode 0x78, R65. -/
  | stb (m : MemRef)
  /-- STS, store register S; opcode 0x7C, R66. -/
  | sts (m : MemRef)
  /-- STT, store register T; opcode 0x84, R67. -/
  | stt (m : MemRef)
  /-- ADDR, register add, `r2 <- r2 + r1`; opcode 0x90, R85. -/
  | addr (r1 r2 : Nibble)
  /-- SUBR, register subtract, `r2 <- r2 - r1`; opcode 0x94, R86. -/
  | subr (r1 r2 : Nibble)
  /-- MULR, register multiply, `r2 <- r2 * r1`; opcode 0x98, R87. -/
  | mulr (r1 r2 : Nibble)
  /-- DIVR, register divide, `r2 <- r2 / r1`; opcode 0x9C, R88. -/
  | divr (r1 r2 : Nibble)
  /-- COMPR, register compare, `r1` against `r2`; opcode 0xA0, R89. -/
  | compr (r1 r2 : Nibble)
  /-- SHIFTL, circular left shift of `r1` by `r2 + 1`; opcode 0xA4, R91. -/
  | shiftl (r1 r2 : Nibble)
  /-- SHIFTR, arithmetic right shift of `r1` by `r2 + 1`; opcode 0xA8, R92. -/
  | shiftr (r1 r2 : Nibble)
  /-- RMO, register move, `r2 <- r1`; opcode 0xAC, R90. -/
  | rmo (r1 r2 : Nibble)
  /-- CLEAR, register clear, `r1 <- 0` (`r2` is ignored); opcode 0xB4, R93. -/
  | clear (r1 r2 : Nibble)
  /-- no handler; opcode 0xB0, R40. -/
  | unsupportedB0 (r1 r2 : Nibble)
  /-- no handler; opcode 0xB8, R40. -/
  | unsupportedB8 (r1 r2 : Nibble)
  /-- no handler; opcode 0xC0, R40. -/
  | unsupportedC0
  /-- no handler; opcode 0xC4, R40. -/
  | unsupportedC4
  /-- no handler; opcode 0xC8, R40. -/
  | unsupportedC8
  /-- no handler; opcode 0xF0, R40. -/
  | unsupportedF0
  /-- no handler; opcode 0xF4, R40. -/
  | unsupportedF4
  /-- no handler; opcode 0xF8, R40. -/
  | unsupportedF8
  /-- no handler; opcode 0x58, R40. -/
  | unsupported58 (m : MemRef)
  /-- no handler; opcode 0x5C, R40. -/
  | unsupported5C (m : MemRef)
  /-- no handler; opcode 0x60, R40. -/
  | unsupported60 (m : MemRef)
  /-- no handler; opcode 0x64, R40. -/
  | unsupported64 (m : MemRef)
  /-- no handler; opcode 0x70, R40. -/
  | unsupported70 (m : MemRef)
  /-- no handler; opcode 0x80, R40. -/
  | unsupported80 (m : MemRef)
  /-- no handler; opcode 0x88, R40. -/
  | unsupported88 (m : MemRef)
  /-- no handler; opcode 0x8C, R40. -/
  | unsupported8C (m : MemRef)
  /-- no handler; opcode 0xBC, R40. -/
  | unsupportedBC (m : MemRef)
  /-- no handler; opcode 0xCC, R40. -/
  | unsupportedCC (m : MemRef)
  /-- no handler; opcode 0xD0, R40. -/
  | unsupportedD0 (m : MemRef)
  /-- no handler; opcode 0xD4, R40. -/
  | unsupportedD4 (m : MemRef)
  /-- no handler; opcode 0xD8, R40. -/
  | unsupportedD8 (m : MemRef)
  /-- no handler; opcode 0xDC, R40. -/
  | unsupportedDC (m : MemRef)
  /-- no handler; opcode 0xE0, R40. -/
  | unsupportedE0 (m : MemRef)
  /-- no handler; opcode 0xE4, R40. -/
  | unsupportedE4 (m : MemRef)
  /-- no handler; opcode 0xE8, R40. -/
  | unsupportedE8 (m : MemRef)
  /-- no handler; opcode 0xEC, R40. -/
  | unsupportedEC (m : MemRef)
  /-- no handler; opcode 0xFC, R40. -/
  | unsupportedFC (m : MemRef)
deriving DecidableEq, Repr

end Sys2Proof
end

