-- ==== Sys2Proof/WellFormed.lean ====
section
/-! DEFINITION. WellFormed.lean: which instructions an encoding exists for. Nibbles, flags and the 20-bit address are in
range by their types; the one check is the range of the format-3 displacement (30_encoding.md R36). -/

namespace Sys2Proof

/-- `D.disp` of format 3 is "an integer in [-2048, 2047]" (30_encoding.md R36). -/
def MemRef.wellFormed : MemRef → Bool
  | .format3 _ disp => decide (-2048 ≤ disp) && decide (disp ≤ 2047)
  | .format4 _ _ => true

/-- A well-formed instruction: one whose fields fit its encoding. -/
def WellFormed (instr : Instr) : Bool :=
  match instr with
  | .lda m => m.wellFormed
  | .ldx m => m.wellFormed
  | .ldl m => m.wellFormed
  | .sta m => m.wellFormed
  | .stx m => m.wellFormed
  | .stl m => m.wellFormed
  | .add m => m.wellFormed
  | .sub m => m.wellFormed
  | .mul m => m.wellFormed
  | .div m => m.wellFormed
  | .comp m => m.wellFormed
  | .tix m => m.wellFormed
  | .jeq m => m.wellFormed
  | .jgt m => m.wellFormed
  | .jlt m => m.wellFormed
  | .j m => m.wellFormed
  | .and m => m.wellFormed
  | .or m => m.wellFormed
  | .jsub m => m.wellFormed
  | .rsub m => m.wellFormed
  | .ldch m => m.wellFormed
  | .stch m => m.wellFormed
  | .ldb m => m.wellFormed
  | .lds m => m.wellFormed
  | .ldt m => m.wellFormed
  | .stb m => m.wellFormed
  | .sts m => m.wellFormed
  | .stt m => m.wellFormed
  | .addr _ _ => true
  | .subr _ _ => true
  | .mulr _ _ => true
  | .divr _ _ => true
  | .compr _ _ => true
  | .shiftl _ _ => true
  | .shiftr _ _ => true
  | .rmo _ _ => true
  | .clear _ _ => true
  | .unsupportedB0 _ _ => true
  | .unsupportedB8 _ _ => true
  | .unsupportedC0 => true
  | .unsupportedC4 => true
  | .unsupportedC8 => true
  | .unsupportedF0 => true
  | .unsupportedF4 => true
  | .unsupportedF8 => true
  | .unsupported58 m => m.wellFormed
  | .unsupported5C m => m.wellFormed
  | .unsupported60 m => m.wellFormed
  | .unsupported64 m => m.wellFormed
  | .unsupported70 m => m.wellFormed
  | .unsupported80 m => m.wellFormed
  | .unsupported88 m => m.wellFormed
  | .unsupported8C m => m.wellFormed
  | .unsupportedBC m => m.wellFormed
  | .unsupportedCC m => m.wellFormed
  | .unsupportedD0 m => m.wellFormed
  | .unsupportedD4 m => m.wellFormed
  | .unsupportedD8 m => m.wellFormed
  | .unsupportedDC m => m.wellFormed
  | .unsupportedE0 m => m.wellFormed
  | .unsupportedE4 m => m.wellFormed
  | .unsupportedE8 m => m.wellFormed
  | .unsupportedEC m => m.wellFormed
  | .unsupportedFC m => m.wellFormed

end Sys2Proof
end

