-- ==== Sys2Proof/Decode.lean ====
section
/-! DEFINITION. Decode.lean: the decoder (30_encoding.md R30 to R38), total on any bytes, the encoder written from the same
layouts, and the reading of the opcode table's words. -/

namespace Sys2Proof

/-! ## The opcode tables -/

/-- The base format the opcode table gives an opcode (30_encoding.md R32). -/
inductive BaseFormat where
  | one
  | two
  | threeFour
deriving DecidableEq, Repr

/-- `OPCODE_FORMAT` (30_encoding.md R32, decision D3): an opcode absent from the two lists defaults to the format-3/4
group. Log entry 3. -/
def opcodeFormat (op : Byte) : BaseFormat :=
  if op ∈ [0xC0#8, 0xC4#8, 0xC8#8, 0xF0#8, 0xF4#8, 0xF8#8] then .one
  else if op ∈ [0x90#8, 0x94#8, 0x98#8, 0x9C#8, 0xA0#8, 0xA4#8, 0xA8#8, 0xAC#8, 0xB0#8,
      0xB4#8, 0xB8#8] then .two
  else .threeFour

/-- What one row of the opcode map makes of an instruction's fields. -/
inductive OpcodeRow where
  | format1 (instr : Instr)
  | format2 (mk : Nibble → Nibble → Instr)
  | memory (mk : MemRef → Instr)

/-- The opcode map (30_encoding.md R39; numbers other than 00 0C 18 4C by decision D2, log entry 2). `none` only for a value
that is no opcode, that is, no multiple of 4. -/
def opcodeRow (op : Byte) : Option OpcodeRow :=
  match op with
  | 0x00#8 => some (.memory .lda)
  | 0x04#8 => some (.memory .ldx)
  | 0x08#8 => some (.memory .ldl)
  | 0x0C#8 => some (.memory .sta)
  | 0x10#8 => some (.memory .stx)
  | 0x14#8 => some (.memory .stl)
  | 0x18#8 => some (.memory .add)
  | 0x1C#8 => some (.memory .sub)
  | 0x20#8 => some (.memory .mul)
  | 0x24#8 => some (.memory .div)
  | 0x28#8 => some (.memory .comp)
  | 0x2C#8 => some (.memory .tix)
  | 0x30#8 => some (.memory .jeq)
  | 0x34#8 => some (.memory .jgt)
  | 0x38#8 => some (.memory .jlt)
  | 0x3C#8 => some (.memory .j)
  | 0x40#8 => some (.memory .and)
  | 0x44#8 => some (.memory .or)
  | 0x48#8 => some (.memory .jsub)
  | 0x4C#8 => some (.memory .rsub)
  | 0x50#8 => some (.memory .ldch)
  | 0x54#8 => some (.memory .stch)
  | 0x58#8 => some (.memory .unsupported58)
  | 0x5C#8 => some (.memory .unsupported5C)
  | 0x60#8 => some (.memory .unsupported60)
  | 0x64#8 => some (.memory .unsupported64)
  | 0x68#8 => some (.memory .ldb)
  | 0x6C#8 => some (.memory .lds)
  | 0x70#8 => some (.memory .unsupported70)
  | 0x74#8 => some (.memory .ldt)
  | 0x78#8 => some (.memory .stb)
  | 0x7C#8 => some (.memory .sts)
  | 0x80#8 => some (.memory .unsupported80)
  | 0x84#8 => some (.memory .stt)
  | 0x88#8 => some (.memory .unsupported88)
  | 0x8C#8 => some (.memory .unsupported8C)
  | 0x90#8 => some (.format2 .addr)
  | 0x94#8 => some (.format2 .subr)
  | 0x98#8 => some (.format2 .mulr)
  | 0x9C#8 => some (.format2 .divr)
  | 0xA0#8 => some (.format2 .compr)
  | 0xA4#8 => some (.format2 .shiftl)
  | 0xA8#8 => some (.format2 .shiftr)
  | 0xAC#8 => some (.format2 .rmo)
  | 0xB0#8 => some (.format2 .unsupportedB0)
  | 0xB4#8 => some (.format2 .clear)
  | 0xB8#8 => some (.format2 .unsupportedB8)
  | 0xBC#8 => some (.memory .unsupportedBC)
  | 0xC0#8 => some (.format1 .unsupportedC0)
  | 0xC4#8 => some (.format1 .unsupportedC4)
  | 0xC8#8 => some (.format1 .unsupportedC8)
  | 0xCC#8 => some (.memory .unsupportedCC)
  | 0xD0#8 => some (.memory .unsupportedD0)
  | 0xD4#8 => some (.memory .unsupportedD4)
  | 0xD8#8 => some (.memory .unsupportedD8)
  | 0xDC#8 => some (.memory .unsupportedDC)
  | 0xE0#8 => some (.memory .unsupportedE0)
  | 0xE4#8 => some (.memory .unsupportedE4)
  | 0xE8#8 => some (.memory .unsupportedE8)
  | 0xEC#8 => some (.memory .unsupportedEC)
  | 0xF0#8 => some (.format1 .unsupportedF0)
  | 0xF4#8 => some (.format1 .unsupportedF4)
  | 0xF8#8 => some (.format1 .unsupportedF8)
  | 0xFC#8 => some (.memory .unsupportedFC)
  | _ => none

/-! ## The decoder -/

/-- Why the decoder gives no instruction. -/
inductive DecodeError where
  /-- The byte with this number (0 is byte 1) is needed and absent (30_encoding.md R38: the byte's read fails). Safe. -/
  | missingByte (k : Nat)
  /-- The opcode has no row. No byte sequence is so rejected (R38: the decoder rejects no bit pattern). Safe. -/
  | noRow (op : Byte)
deriving DecidableEq, Repr

/-- Opcode extraction (30_encoding.md R31): byte 1 with its two low bits cleared. -/
def opcodeOf (byte1 : Byte) : Byte := byte1 &&& 0xFC#8

/-- Sign extension of the format-3 field from bit 11 (30_encoding.md R36). -/
def sext12 (field : BitVec 12) : Int := field.toInt

/-- The flags `n i` of byte 1 and `x b p` of byte 2 (30_encoding.md R35). -/
def decodeFlags (byte1 byte2 : Byte) : AddrFlags where
  n := byte1.getLsbD 1
  i := byte1.getLsbD 0
  x := byte2.getLsbD 7
  b := byte2.getLsbD 6
  p := byte2.getLsbD 5

/-- The flag `e`, bit 4 of byte 2 (30_encoding.md R35). -/
def decodeE (byte2 : Byte) : Bool := byte2.getLsbD 4

/-- The 12-bit field of format 3 (30_encoding.md R36). -/
def field12 (byte2 byte3 : Byte) : BitVec 12 := byte2.extractLsb' 0 4 ++ byte3

/-- The 20-bit field of format 4 (30_encoding.md R37). -/
def field20 (byte2 byte3 byte4 : Byte) : BitVec 20 := byte2.extractLsb' 0 4 ++ byte3 ++ byte4

/-- The decoder on the bytes from the instruction's first byte on (30_encoding.md R38): the instruction and the bytes after
it. Bytes are needed in the order the rule reads them, so the first absent one is the one named. -/
def decode : List Byte → Except DecodeError (Instr × List Byte)
  | [] => .error (.missingByte 0)
  | byte1 :: rest =>
    match opcodeRow (opcodeOf byte1) with
    | none => .error (.noRow (opcodeOf byte1))
    | some (.format1 instr) => .ok (instr, rest)
    | some (.format2 mk) =>
      match rest with
      | [] => .error (.missingByte 1)
      | byte2 :: rest => .ok (mk (byte2.extractLsb' 4 4) (byte2.extractLsb' 0 4), rest)
    | some (.memory mk) =>
      match rest with
      | [] => .error (.missingByte 1)
      | [_] => .error (.missingByte 2)
      | byte2 :: byte3 :: rest =>
        if decodeE byte2 then
          match rest with
          | [] => .error (.missingByte 3)
          | byte4 :: rest =>
            .ok (mk (.format4 (decodeFlags byte1 byte2) (field20 byte2 byte3 byte4)), rest)
        else
          .ok (mk (.format3 (decodeFlags byte1 byte2) (sext12 (field12 byte2 byte3))), rest)

/-! ## Opcode, fields and length of an instruction -/

/-- The opcode `D.opcode` of an instruction (30_encoding.md R39). -/
def Instr.opcode (instr : Instr) : Byte :=
  match instr with
  | .lda _ => 0x00#8
  | .ldx _ => 0x04#8
  | .ldl _ => 0x08#8
  | .sta _ => 0x0C#8
  | .stx _ => 0x10#8
  | .stl _ => 0x14#8
  | .add _ => 0x18#8
  | .sub _ => 0x1C#8
  | .mul _ => 0x20#8
  | .div _ => 0x24#8
  | .comp _ => 0x28#8
  | .tix _ => 0x2C#8
  | .jeq _ => 0x30#8
  | .jgt _ => 0x34#8
  | .jlt _ => 0x38#8
  | .j _ => 0x3C#8
  | .and _ => 0x40#8
  | .or _ => 0x44#8
  | .jsub _ => 0x48#8
  | .rsub _ => 0x4C#8
  | .ldch _ => 0x50#8
  | .stch _ => 0x54#8
  | .ldb _ => 0x68#8
  | .lds _ => 0x6C#8
  | .ldt _ => 0x74#8
  | .stb _ => 0x78#8
  | .sts _ => 0x7C#8
  | .stt _ => 0x84#8
  | .addr _ _ => 0x90#8
  | .subr _ _ => 0x94#8
  | .mulr _ _ => 0x98#8
  | .divr _ _ => 0x9C#8
  | .compr _ _ => 0xA0#8
  | .shiftl _ _ => 0xA4#8
  | .shiftr _ _ => 0xA8#8
  | .rmo _ _ => 0xAC#8
  | .clear _ _ => 0xB4#8
  | .unsupportedB0 _ _ => 0xB0#8
  | .unsupportedB8 _ _ => 0xB8#8
  | .unsupportedC0 => 0xC0#8
  | .unsupportedC4 => 0xC4#8
  | .unsupportedC8 => 0xC8#8
  | .unsupportedF0 => 0xF0#8
  | .unsupportedF4 => 0xF4#8
  | .unsupportedF8 => 0xF8#8
  | .unsupported58 _ => 0x58#8
  | .unsupported5C _ => 0x5C#8
  | .unsupported60 _ => 0x60#8
  | .unsupported64 _ => 0x64#8
  | .unsupported70 _ => 0x70#8
  | .unsupported80 _ => 0x80#8
  | .unsupported88 _ => 0x88#8
  | .unsupported8C _ => 0x8C#8
  | .unsupportedBC _ => 0xBC#8
  | .unsupportedCC _ => 0xCC#8
  | .unsupportedD0 _ => 0xD0#8
  | .unsupportedD4 _ => 0xD4#8
  | .unsupportedD8 _ => 0xD8#8
  | .unsupportedDC _ => 0xDC#8
  | .unsupportedE0 _ => 0xE0#8
  | .unsupportedE4 _ => 0xE4#8
  | .unsupportedE8 _ => 0xE8#8
  | .unsupportedEC _ => 0xEC#8
  | .unsupportedFC _ => 0xFC#8

/-- The fields an instruction has beside its opcode. -/
inductive Shape where
  | format1
  | format2 (r1 r2 : Nibble)
  | memory (m : MemRef)
deriving DecidableEq, Repr

/-- The fields of an instruction (30_encoding.md R33 to R37). -/
def Instr.shape (instr : Instr) : Shape :=
  match instr with
  | .lda m => .memory m
  | .ldx m => .memory m
  | .ldl m => .memory m
  | .sta m => .memory m
  | .stx m => .memory m
  | .stl m => .memory m
  | .add m => .memory m
  | .sub m => .memory m
  | .mul m => .memory m
  | .div m => .memory m
  | .comp m => .memory m
  | .tix m => .memory m
  | .jeq m => .memory m
  | .jgt m => .memory m
  | .jlt m => .memory m
  | .j m => .memory m
  | .and m => .memory m
  | .or m => .memory m
  | .jsub m => .memory m
  | .rsub m => .memory m
  | .ldch m => .memory m
  | .stch m => .memory m
  | .ldb m => .memory m
  | .lds m => .memory m
  | .ldt m => .memory m
  | .stb m => .memory m
  | .sts m => .memory m
  | .stt m => .memory m
  | .addr r1 r2 => .format2 r1 r2
  | .subr r1 r2 => .format2 r1 r2
  | .mulr r1 r2 => .format2 r1 r2
  | .divr r1 r2 => .format2 r1 r2
  | .compr r1 r2 => .format2 r1 r2
  | .shiftl r1 r2 => .format2 r1 r2
  | .shiftr r1 r2 => .format2 r1 r2
  | .rmo r1 r2 => .format2 r1 r2
  | .clear r1 r2 => .format2 r1 r2
  | .unsupportedB0 r1 r2 => .format2 r1 r2
  | .unsupportedB8 r1 r2 => .format2 r1 r2
  | .unsupportedC0 => .format1
  | .unsupportedC4 => .format1
  | .unsupportedC8 => .format1
  | .unsupportedF0 => .format1
  | .unsupportedF4 => .format1
  | .unsupportedF8 => .format1
  | .unsupported58 m => .memory m
  | .unsupported5C m => .memory m
  | .unsupported60 m => .memory m
  | .unsupported64 m => .memory m
  | .unsupported70 m => .memory m
  | .unsupported80 m => .memory m
  | .unsupported88 m => .memory m
  | .unsupported8C m => .memory m
  | .unsupportedBC m => .memory m
  | .unsupportedCC m => .memory m
  | .unsupportedD0 m => .memory m
  | .unsupportedD4 m => .memory m
  | .unsupportedD8 m => .memory m
  | .unsupportedDC m => .memory m
  | .unsupportedE0 m => .memory m
  | .unsupportedE4 m => .memory m
  | .unsupportedE8 m => .memory m
  | .unsupportedEC m => .memory m
  | .unsupportedFC m => .memory m

/-- The flags `n i x b p` of either form. -/
def MemRef.flags : MemRef → AddrFlags
  | .format3 fl _ => fl
  | .format4 fl _ => fl

/-- `D.len` of the format-3/4 group: the format number is the length (30_encoding.md R30). -/
def MemRef.length : MemRef → Nat
  | .format3 _ _ => 3
  | .format4 _ _ => 4

/-- `D.len` (30_encoding.md R30). -/
def Instr.length (instr : Instr) : Nat :=
  match instr.shape with
  | .format1 => 1
  | .format2 _ _ => 2
  | .memory m => m.length

/-! ## The encoder -/

/-- Byte 1 of the format-3/4 group: opcode, `n`, `i` (30_encoding.md R36, R37). -/
def encodeByte1 (op : Byte) (fl : AddrFlags) : Byte :=
  op.extractLsb' 2 6 ++ BitVec.ofBool fl.n ++ BitVec.ofBool fl.i

/-- Byte 2 of the format-3/4 group: `x b p e` over the four high bits of the field (30_encoding.md R36, R37). -/
def encodeByte2 (fl : AddrFlags) (e : Bool) (high : BitVec 4) : Byte :=
  BitVec.ofBool fl.x ++ BitVec.ofBool fl.b ++ BitVec.ofBool fl.p ++ BitVec.ofBool e ++ high

/-- The bytes of a format-3/4 instruction, byte 1 first. -/
def encodeMemory (op : Byte) : MemRef → List Byte
  | .format3 fl disp =>
    let field := BitVec.ofInt 12 disp
    [encodeByte1 op fl, encodeByte2 fl false (field.extractLsb' 8 4), field.extractLsb' 0 8]
  | .format4 fl addr =>
    [encodeByte1 op fl, encodeByte2 fl true (addr.extractLsb' 16 4), addr.extractLsb' 8 8,
      addr.extractLsb' 0 8]

/-- The bytes of an instruction in ascending address order (30_encoding.md R33 to R37); the ignored bits of formats 1 and 2
are written 0. -/
def encode (instr : Instr) : List Byte :=
  match instr.shape with
  | .format1 => [instr.opcode]
  | .format2 r1 r2 => [instr.opcode, r1 ++ r2]
  | .memory m => encodeMemory instr.opcode m

/-! ## The opcode table's words -/

/-- The bytes of a table word of `nbits` bits, byte 1 first, and zero bytes up to the longest instruction (4 bytes).
spec/opcode_table.json writes an instruction as one bit string with byte 1 on the most significant side (30_encoding.md R39);
the hardware stores it big-endian (20_memory.md R22). Log entry 34. -/
def tableBytes (nbits w : Nat) : List Byte :=
  (List.range (nbits / 8)).map (fun k => BitVec.ofNat 8 (w >>> (8 * (nbits / 8 - 1 - k))))
    ++ List.replicate (4 - nbits / 8) 0#8

/-- The instruction the decoder reads from a table word. -/
def decodeTableWord (nbits w : Nat) : Option Instr :=
  match decode (tableBytes nbits w) with
  | .ok (instr, _) => some instr
  | .error _ => none

end Sys2Proof
end

