-- ==== Sys2Proof/Machine/State.lean ====
section
/-! DEFINITION. Machine/State.lean: the architectural state (10_state.md), the ways a step or a host transaction stops
(60_exceptions.md R94), and the state after reset (10_state.md R15). -/

namespace Sys2Proof.Machine

/-! ## Register names -/

/-- The six general registers (10_state.md R6; names and roles by decision D1, log entry 1). -/
inductive GReg where
  /-- code 0, the accumulator -/
  | a
  /-- code 1, the index register -/
  | x
  /-- code 2, the link register -/
  | l
  /-- code 3, the base register -/
  | b
  /-- code 4 -/
  | s
  /-- code 5 -/
  | t
deriving DecidableEq, Repr

/-- The eight registers the host can read (10_state.md R6, 70_reset_and_hazards.md R111). -/
inductive RegId where
  /-- a general register -/
  | general (r : GReg)
  /-- the program counter, internal code -1 -/
  | pc
  /-- the condition-code carrier, internal code -2 -/
  | sw
deriving DecidableEq, Repr

/-! ## Memory -/

/-- Memory contents: the bytes that are not zero, in rising address order. An address not listed reads as 0, which is what
every cell holds after construction and after a clearing reset (10_state.md R15). -/
abbrev Memory := List Host.Cell

/-- The canonical form: addresses strictly rising, no entry equal to what an unlisted address reads as. -/
abbrev Memory.wf (m : Memory) : Prop :=
  m.Pairwise (fun c d => c.1 < d.1) ∧ ∀ c ∈ m, c.2 ≠ 0#8

/-! ## The state -/

/-- The architectural state (10_state.md R5), with the memory size that construction fixed. -/
structure State where
  /-- `A`, code 0 (10_state.md R6) -/
  regA : Word
  /-- `X`, code 1 (10_state.md R6) -/
  regX : Word
  /-- `L`, code 2 (10_state.md R6) -/
  regL : Word
  /-- `B`, code 3 (10_state.md R6) -/
  regB : Word
  /-- `S`, code 4 (10_state.md R6) -/
  regS : Word
  /-- `T`, code 5 (10_state.md R6) -/
  regT : Word
  /-- `PC`, the byte address of the next instruction (10_state.md R8) -/
  pc : Word
  /-- `SW`, the carrier of the condition code (10_state.md R9, R10) -/
  sw : Word
  /-- `MEM_WORDS`: a parameter fixed at construction, which no step and no reset changes (10_state.md R5, R12; log entry 15) -/
  memWords : Nat
  /-- `Mem` (10_state.md R12) -/
  mem : Memory
deriving DecidableEq, Repr

/-- The machine right after construction and after a clearing reset (10_state.md R15): every register 0, `PC` 0, `CC` 0,
every byte 0. The spec states all of it but the memory size, which is the model's choice (log entry 15). -/
def State.reset : State where
  regA := 0#24
  regX := 0#24
  regL := 0#24
  regB := 0#24
  regS := 0#24
  regT := 0#24
  pc := 0#24
  sw := 0#24
  memWords := Config.resetMemWords
  mem := []

/-! ## Stops -/

/-- The error kinds (60_exceptions.md R94). A fault ends the step, or the host transaction, with no change of state (R45 of
40_execution_cycle.md, R101); the payload is the report to the host (decision D17, log entry 17), not state. Each is the
spec's own outcome, so each is safe. -/
inductive Fault where
  /-- A byte address below 0 or at or beyond `SIZE`, or a word span not inside memory; raised by the memory primitives and by
  instruction fetch; the address is the one given to the failing access (R94, R95). Safe: the spec's own outcome. -/
  | addressError (addr : Int)
  /-- The decoded opcode has no handler; raised by the 27 `unsupported` instructions (R96). Safe: the spec's own outcome. -/
  | unsupportedOpcode (op : Byte)
  /-- Division by zero; raised by DIV and DIVR (R97). Safe: the spec's own outcome. -/
  | arithmeticError
  /-- The host named no register of the eight; raised by the register read accessor by name only (R98, R111). Safe. -/
  | unknownRegister (name : String)
  /-- Construction with a non-positive memory size; raised by `construct` only (R99). Safe. -/
  | configurationError (words : Int)
deriving DecidableEq, Repr

/-- Reasons the model gives no meaning. No step answers with one. -/
inductive Refusal where
  /-- An instruction whose arm has no meaning yet; raised by no arm of this model. Safe. -/
  | notModelled (mnemonic : String)
  /-- Construction with more words than 00_scope.md R4 permits (D15, U10: "a model refuses it"); raised by `construct` only.
  Safe. -/
  | memoryTooLarge (words : Int)
deriving DecidableEq, Repr

end Sys2Proof.Machine
end

