-- ==== Sys2Proof/Machine/Ops.lean ====
section
/-! DEFINITION. Machine/Ops.lean: the named operations over registers, memory and the program counter, and abandoning a step
on an error. -/

namespace Sys2Proof.Machine

/-- What one step, or one instruction, answers. -/
abbrev StepResult := Host.Outcome State Fault Refusal

/-! ## Widths and views (00_scope.md section 4, 10_state.md R7) -/

/-- `mask24(v)`: the 24-bit pattern of an integer. -/
def mask24 (v : Int) : Word := BitVec.ofInt 24 v

/-- `s24(w)`: the signed view of a stored pattern. -/
def s24 (w : Word) : Int := w.toInt

/-- The unsigned view of a stored pattern. -/
def u24 (w : Word) : Int := w.toNat

/-! ## Registers -/

/-- The register file's lookup by numeric code (10_state.md R11): codes 6 to 15 name no register. -/
def regOfCode (c : Nibble) : Option GReg :=
  match c.toNat with
  | 0 => some .a
  | 1 => some .x
  | 2 => some .l
  | 3 => some .b
  | 4 => some .s
  | 5 => some .t
  | _ => none

/-- The numeric code of each of the eight registers (10_state.md R6). -/
def RegId.code : RegId → Int
  | .general .a => 0
  | .general .x => 1
  | .general .l => 2
  | .general .b => 3
  | .general .s => 4
  | .general .t => 5
  | .pc => -1
  | .sw => -2

/-- The register file's lookup by name, which only the host uses (10_state.md R11; names by decision D1, log entry 1). -/
def RegId.ofName (name : String) : Option RegId :=
  if name = "A" then some (.general .a)
  else if name = "X" then some (.general .x)
  else if name = "L" then some (.general .l)
  else if name = "B" then some (.general .b)
  else if name = "S" then some (.general .s)
  else if name = "T" then some (.general .t)
  else if name = "PC" then some .pc
  else if name = "SW" then some .sw
  else none

/-- Read a general register (10_state.md R6, R7: the stored pattern). -/
def State.reg (s : State) : GReg → Word
  | .a => s.regA
  | .x => s.regX
  | .l => s.regL
  | .b => s.regB
  | .s => s.regS
  | .t => s.regT

/-- Write a general register (10_state.md R6). No general register is hard-wired, banked or an alias of another. -/
def State.setReg (s : State) (r : GReg) (v : Word) : State :=
  match r with
  | .a => { s with regA := v }
  | .x => { s with regX := v }
  | .l => { s with regL := v }
  | .b => { s with regB := v }
  | .s => { s with regS := v }
  | .t => { s with regT := v }

/-- Write the program counter: `pc <- target` (00_scope.md section 4). -/
def State.setPc (s : State) (target : Word) : State := { s with pc := target }

/-- Write the condition-code carrier (10_state.md R10). -/
def State.setSw (s : State) (v : Word) : State := { s with sw := v }

/-- The sequential successor `nextPC` of an instruction of this length (40_execution_cycle.md R44): it wraps at 2^24. -/
def State.nextPC (s : State) (len : Nat) : Word := mask24 (u24 s.pc + len)

/-! ## Bytes of memory -/

/-- The byte at an address: 0 where none is listed. -/
def Memory.byteAt : Memory → Nat → Byte
  | [], _ => 0#8
  | (a, v) :: rest, addr => if addr = a then v else Memory.byteAt rest addr

/-- Store a byte, keeping the canonical form. -/
def Memory.setByte : Memory → Nat → Byte → Memory
  | [], addr, v => if v = 0#8 then [] else [(addr, v)]
  | (a, w) :: rest, addr, v =>
    if addr < a then (if v = 0#8 then (a, w) :: rest else (addr, v) :: (a, w) :: rest)
    else if addr = a then (if v = 0#8 then rest else (addr, v) :: rest)
    else (a, w) :: Memory.setByte rest addr v

/-- `SIZE` (20_memory.md R16). -/
def State.size (s : State) : Nat := Config.wordBytes * s.memWords

/-- Whether the `len` bytes from `addr` on all exist; plain integers, no wrap (20_memory.md R19, R20, R25). -/
def State.inBounds (s : State) (addr len : Nat) : Bool := decide (addr + len ≤ s.size)

/-- Store a byte that is known to exist. -/
def State.setMemByte (s : State) (addr : Nat) (v : Byte) : State :=
  { s with mem := Memory.setByte s.mem addr v }

/-- The big-endian combination of three bytes (20_memory.md R19, R22). -/
def joinBytes (b0 b1 b2 : Byte) : Word := b0 ++ b1 ++ b2

/-- Byte `k` of a word in memory order, byte 0 the most significant (20_memory.md R20, R22). -/
def wordByte (v : Word) (k : Nat) : Byte := v.extractLsb' (8 * (2 - k)) 8

/-! ## The four access primitives -/

/-- `MemRead(addr, 1)` (20_memory.md R17). -/
def State.readByte (s : State) (addr : Nat) : Except Fault Byte :=
  if s.inBounds addr 1 then .ok (Memory.byteAt s.mem addr) else .error (.addressError addr)

/-- `MemWrite(addr, 1, v)` (20_memory.md R18). -/
def State.writeByte (s : State) (addr : Nat) (v : Byte) : Except Fault State :=
  if s.inBounds addr 1 then .ok (s.setMemByte addr v) else .error (.addressError addr)

/-- `MemRead(addr, 3)` (20_memory.md R19). -/
def State.readWord (s : State) (addr : Nat) : Except Fault Word :=
  if s.inBounds addr 3 then
    .ok (joinBytes (Memory.byteAt s.mem addr) (Memory.byteAt s.mem (addr + 1))
      (Memory.byteAt s.mem (addr + 2)))
  else .error (.addressError addr)

/-- `MemWrite(addr, 3, v)` (20_memory.md R20): the whole span is checked before any byte is written. -/
def State.writeWord (s : State) (addr : Nat) (v : Word) : Except Fault State :=
  if s.inBounds addr 3 then
    .ok (((s.setMemByte addr (wordByte v 0)).setMemByte (addr + 1) (wordByte v 1)).setMemByte
      (addr + 2) (wordByte v 2))
  else .error (.addressError addr)

/-! ## Errors -/

/-- What the core does on an error, from any place in a step (60_exceptions.md R101, 40_execution_cycle.md R45): the step is
abandoned and the kind is reported to the host. Nothing is saved, no status or mode changes, control goes to no vector, so
there is no state to give; the machine's state stays the one before the step. There is no return from it (R102). -/
def raise (kind : Fault) : StepResult := .fault kind

/-- Go on with the value of an operand, or abandon the step. -/
def orRaise {α : Type} (r : Except Fault α) (k : α → StepResult) : StepResult :=
  match r with
  | .ok v => k v
  | .error kind => raise kind

end Sys2Proof.Machine
end

