-- ==== Sys2Proof/Machine/Alu.lean ====
section
/-! DEFINITION. Machine/Alu.lean: the arithmetic shared by the accumulator and the register forms (40_execution_cycle.md R52):
inputs read signed, computed on exact integers, the result reduced to 24 bits. -/

namespace Sys2Proof.Machine

/-- Addition (42_arithmetic_compare_logic.md R70, 44_register_register.md R85; exact integers by decision D27). -/
def addWords (a b : Word) : Word := mask24 (s24 a + s24 b)

/-- Subtraction, left minus right (R71, R86; order by decision D10, log entry 10). -/
def subWords (a b : Word) : Word := mask24 (s24 a - s24 b)

/-- Multiplication: the low 24 bits of the exact product (R72, R87). -/
def mulWords (a b : Word) : Word := mask24 (s24 a * s24 b)

/-- Division, left by right, rounded toward zero (R73, R88; `DIV_ROUND` by decision D9, log entry 9). Used only for a divisor
that is not zero. -/
def divWords (a b : Word) : Word := mask24 (Int.tdiv (s24 a) (s24 b))

/-- The index register's increment (R77): it wraps (decision D14, log entry 14). -/
def incrementWord (v : Word) : Word := mask24 (u24 v + 1)

/-- The shift count that the nibble `r2` encodes, 1 to 16 (44_register_register.md R91, R92; `SHIFT_BIAS = 1`, decision D11,
log entry 11). -/
def shiftCount (r2 : Nibble) : Nat := r2.toNat + 1

/-- Rotation left within 24 bits (44_register_register.md R91; `SHIFTL_KIND = circular`, decision D11, log entry 11). -/
def rotateLeft24 (v : Word) (n : Nat) : Word :=
  mask24 (((v.toNat <<< n) ||| (v.toNat >>> (24 - n)) : Nat) : Int)

/-- Right shift copying bit 23, `floor(s24(v) / 2^n)` (44_register_register.md R92; `SHIFTR_KIND = arithmetic`, decision D11,
log entry 11). -/
def shiftRight24 (v : Word) (n : Nat) : Word := mask24 (Int.fdiv (s24 v) (2 ^ n))

end Sys2Proof.Machine
end

