-- ==== Sys2Proof/Machine/Flags.lean ====
section
/-! DEFINITION. Machine/Flags.lean: the condition code (10_state.md R9, R10; 40_execution_cycle.md R53). -/

namespace Sys2Proof.Machine

/-- The condition code of comparing two exact integers: -1 less, 0 equal, 1 greater (40_execution_cycle.md R53). -/
def ccOf (a b : Int) : Int :=
  if a < b then -1 else if a = b then 0 else 1

/-- `SetCC(a, b)` (40_execution_cycle.md R53): `SW <- mask24(CC)` (10_state.md R10, decision D4, log entry 4). -/
def State.setCC (s : State) (a b : Int) : State := s.setSw (mask24 (ccOf a b))

/-- The condition code: the signed view of its carrier (10_state.md R10). -/
def State.cc (s : State) : Int := s24 s.sw

end Sys2Proof.Machine
end

