-- ==== Sys2Proof/Machine/Operands.lean ====
section
/-! DEFINITION. Machine/Operands.lean: effective address, operand, target address and byte operand of the format-3/4 group
(40_execution_cycle.md R46 to R51), and register operands of format 2 (44_register_register.md R84). -/

namespace Sys2Proof.Machine

/-! ## Effective address -/

/-- `zext_20(v)` (00_scope.md section 4). -/
def zext20 (v : Int) : Int := v % 2 ^ 20

/-- The address before indexing, an exact integer: format 3 tests `p` before `b` (40_execution_cycle.md R46), format 4 tests
`b` before `p` (R47). The direct format-3 displacement, already sign-extended, is reduced to 20 bits (R46, log entry 33). -/
def baseAddress (m : MemRef) (s : State) : Int :=
  match m with
  | .format3 fl disp =>
    if fl.p then u24 (s.nextPC 3) + disp
    else if fl.b then u24 s.regB + disp
    else zext20 disp
  | .format4 fl addr =>
    if fl.b then u24 s.regB + addr.toNat
    else if fl.p then u24 (s.nextPC 4) + addr.toNat
    else addr.toNat

/-- `EA(D, nextPC)` (40_execution_cycle.md R48): indexing by the unsigned `X`, then one reduction to 24 bits. -/
def effectiveAddress (m : MemRef) (s : State) : Word :=
  mask24 (baseAddress m s + if m.flags.x then u24 s.regX else 0)

/-! ## Operand resolution -/

/-- The four rows of the operand table (40_execution_cycle.md R49). -/
inductive OperandMode where
  | simple
  | immediate
  | indirect
  /-- `n = 0, i = 0`, treated as simple (R49, R41 of 30_encoding.md) -/
  | degenerate
deriving DecidableEq, Repr

/-- The row of the operand table that `n i` select (40_execution_cycle.md R49). -/
def operandMode (fl : AddrFlags) : OperandMode :=
  match fl.n, fl.i with
  | true, true => .simple
  | false, true => .immediate
  | true, false => .indirect
  | false, false => .degenerate

/-- `Operand(D, ea)` (40_execution_cycle.md R49). The pointer is a full unsigned 24-bit address (decision D31). -/
def operandWord (m : MemRef) (s : State) : Except Fault Word :=
  let ea := effectiveAddress m s
  match operandMode m.flags with
  | .immediate => .ok ea
  | .indirect =>
    match s.readWord ea.toNat with
    | .error kind => .error kind
    | .ok ptr => s.readWord ptr.toNat
  | .simple => s.readWord ea.toNat
  | .degenerate => s.readWord ea.toNat

/-- `ByteOperand(D, ea)` (40_execution_cycle.md R51, `CHAR_MODE = byte_at_ea`, decision D8, log entry 8). -/
def operandByte (m : MemRef) (s : State) : Except Fault Byte :=
  let ea := effectiveAddress m s
  match operandMode m.flags with
  | .immediate => .ok (ea.extractLsb' 0 8)
  | .indirect =>
    match s.readWord ea.toNat with
    | .error kind => .error kind
    | .ok ptr => s.readByte ptr.toNat
  | .simple => s.readByte ea.toNat
  | .degenerate => s.readByte ea.toNat

/-- `Target(D, ea)` of stores, branches and calls (40_execution_cycle.md R50, `TA_MODE = literal_ea`, decision D7, log
entry 7): `ea` for every `n i`. -/
def targetAddress (m : MemRef) (s : State) : Word := effectiveAddress m s

/-! ## Register operands of format 2 -/

/-- A register code that names no register makes the instruction advance the program counter and do nothing else
(44_register_register.md R84). -/
def registerNoOp (s : State) : StepResult := .next (s.setPc (s.nextPC 2))

/-- `ResolveRegs(D, false)`: only `r1` is a register code (44_register_register.md R84). -/
def withReg (r1 : Nibble) (s : State) (k : GReg → StepResult) : StepResult :=
  match regOfCode r1 with
  | some ra => k ra
  | none => registerNoOp s

/-- `ResolveRegs(D, true)`: both nibbles are register codes (44_register_register.md R84). -/
def withRegs (r1 r2 : Nibble) (s : State) (k : GReg → GReg → StepResult) : StepResult :=
  match regOfCode r1, regOfCode r2 with
  | some ra, some rb => k ra rb
  | _, _ => registerNoOp s

end Sys2Proof.Machine
end

