-- ==== Sys2Proof/Machine/Accumulator.lean ====
section
/-! DEFINITION. Machine/Accumulator.lean: accumulator arithmetic, compare, logic and index-and-test
(42_arithmetic_compare_logic.md). -/

namespace Sys2Proof.Machine

/-- The accumulator combined with the resolved operand; `CC` is not written (42_arithmetic_compare_logic.md R70). -/
def accumulate (f : Word → Word → Word) (m : MemRef) (s : State) : StepResult :=
  orRaise (operandWord m s) fun v =>
    .next ((s.setReg .a (f s.regA v)).setPc (s.nextPC m.length))

/-- ADD (42_arithmetic_compare_logic.md R70). -/
def execAdd (m : MemRef) (s : State) : StepResult := accumulate addWords m s

/-- SUB (42_arithmetic_compare_logic.md R71): accumulator minus operand. -/
def execSub (m : MemRef) (s : State) : StepResult := accumulate subWords m s

/-- MUL (42_arithmetic_compare_logic.md R72). -/
def execMul (m : MemRef) (s : State) : StepResult := accumulate mulWords m s

/-- DIV (42_arithmetic_compare_logic.md R73): the operand is resolved, then tested for zero, before any write. -/
def execDiv (m : MemRef) (s : State) : StepResult :=
  orRaise (operandWord m s) fun v =>
    if s24 v = 0 then raise .arithmeticError
    else .next ((s.setReg .a (divWords s.regA v)).setPc (s.nextPC m.length))

/-- COMP (42_arithmetic_compare_logic.md R74). -/
def execComp (m : MemRef) (s : State) : StepResult :=
  orRaise (operandWord m s) fun v =>
    .next ((s.setCC (s24 s.regA) (s24 v)).setPc (s.nextPC m.length))

/-- AND (42_arithmetic_compare_logic.md R75). -/
def execAnd (m : MemRef) (s : State) : StepResult := accumulate (fun a v => a &&& v) m s

/-- OR (42_arithmetic_compare_logic.md R76). -/
def execOr (m : MemRef) (s : State) : StepResult := accumulate (fun a v => a ||| v) m s

/-- TIX (42_arithmetic_compare_logic.md R77): the operand is resolved with the old `X`; the incremented, stored value is
compared. -/
def execTix (m : MemRef) (s : State) : StepResult :=
  orRaise (operandWord m s) fun v =>
    let nx := incrementWord s.regX
    .next (((s.setReg .x nx).setCC (s24 nx) (s24 v)).setPc (s.nextPC m.length))

end Sys2Proof.Machine
end

