-- ==== Sys2Proof/Machine/Control.lean ====
section
/-! DEFINITION. Machine/Control.lean: branches, subroutine call and return (43_control_transfer.md). The target is not checked
against the memory size here: the next step's fetch does that. -/

namespace Sys2Proof.Machine

/-- A conditional branch: the condition selects `ea` or `nextPC` (43_control_transfer.md R79 to R81). -/
def branchIf (taken : Bool) (m : MemRef) (s : State) : StepResult :=
  .next (s.setPc (if taken then targetAddress m s else s.nextPC m.length))

/-- J (43_control_transfer.md R78). -/
def execJ (m : MemRef) (s : State) : StepResult := .next (s.setPc (targetAddress m s))

/-- JEQ (43_control_transfer.md R79). -/
def execJeq (m : MemRef) (s : State) : StepResult := branchIf (decide (s.cc = 0)) m s

/-- JGT (43_control_transfer.md R80). -/
def execJgt (m : MemRef) (s : State) : StepResult := branchIf (decide (s.cc = 1)) m s

/-- JLT (43_control_transfer.md R81). -/
def execJlt (m : MemRef) (s : State) : StepResult := branchIf (decide (s.cc = -1)) m s

/-- JSUB (43_control_transfer.md R82). -/
def execJsub (m : MemRef) (s : State) : StepResult :=
  .next ((s.setReg .l (s.nextPC m.length)).setPc (targetAddress m s))

/-- RSUB (43_control_transfer.md R83): its flags and its field are ignored (decision D13, log entry 13). -/
def execRsub (s : State) : StepResult := .next (s.setPc s.regL)

end Sys2Proof.Machine
end

