-- ==== Sys2Proof/Machine/LoadStore.lean ====
section
/-! DEFINITION. Machine/LoadStore.lean: the loads and stores (41_load_store.md). -/

namespace Sys2Proof.Machine

/-! ## Shared operations -/

/-- A word load: the resolved operand replaces all 24 bits of the register (41_load_store.md R56). -/
def loadRegister (r : GReg) (m : MemRef) (s : State) : StepResult :=
  orRaise (operandWord m s) fun v => .next ((s.setReg r v).setPc (s.nextPC m.length))

/-- A word store: the register is written at the target address (41_load_store.md R62). -/
def storeRegister (r : GReg) (m : MemRef) (s : State) : StepResult :=
  orRaise (s.writeWord (targetAddress m s).toNat (s.reg r)) fun t =>
    .next (t.setPc (s.nextPC m.length))

/-- The low byte of a register replaced, its upper 16 bits kept (41_load_store.md R68). -/
def withLowByte (w : Word) (c : Byte) : Word := w.extractLsb' 8 16 ++ c

/-! ## Word loads -/

/-- LDA (41_load_store.md R56). -/
def execLda (m : MemRef) (s : State) : StepResult := loadRegister .a m s

/-- LDX (41_load_store.md R57). -/
def execLdx (m : MemRef) (s : State) : StepResult := loadRegister .x m s

/-- LDL (41_load_store.md R58). -/
def execLdl (m : MemRef) (s : State) : StepResult := loadRegister .l m s

/-- LDB (41_load_store.md R59). -/
def execLdb (m : MemRef) (s : State) : StepResult := loadRegister .b m s

/-- LDS (41_load_store.md R60). -/
def execLds (m : MemRef) (s : State) : StepResult := loadRegister .s m s

/-- LDT (41_load_store.md R61). -/
def execLdt (m : MemRef) (s : State) : StepResult := loadRegister .t m s

/-! ## Word stores -/

/-- STA (41_load_store.md R62). -/
def execSta (m : MemRef) (s : State) : StepResult := storeRegister .a m s

/-- STX (41_load_store.md R63). -/
def execStx (m : MemRef) (s : State) : StepResult := storeRegister .x m s

/-- STL (41_load_store.md R64). -/
def execStl (m : MemRef) (s : State) : StepResult := storeRegister .l m s

/-- STB (41_load_store.md R65). -/
def execStb (m : MemRef) (s : State) : StepResult := storeRegister .b m s

/-- STS (41_load_store.md R66). -/
def execSts (m : MemRef) (s : State) : StepResult := storeRegister .s m s

/-- STT (41_load_store.md R67). -/
def execStt (m : MemRef) (s : State) : StepResult := storeRegister .t m s

/-! ## Character variants -/

/-- LDCH (41_load_store.md R68). -/
def execLdch (m : MemRef) (s : State) : StepResult :=
  orRaise (operandByte m s) fun c =>
    .next ((s.setReg .a (withLowByte s.regA c)).setPc (s.nextPC m.length))

/-- STCH (41_load_store.md R69): exactly one byte, `A[7:0]`, at the target address. -/
def execStch (m : MemRef) (s : State) : StepResult :=
  orRaise (s.writeByte (targetAddress m s).toNat (s.regA.extractLsb' 0 8)) fun t =>
    .next (t.setPc (s.nextPC m.length))

end Sys2Proof.Machine
end

