-- ==== Sys2Proof/Machine/RegisterRegister.lean ====
section
/-! DEFINITION. Machine/RegisterRegister.lean: the format-2 instructions (44_register_register.md). -/

namespace Sys2Proof.Machine

/-- Register arithmetic: `x[r2] <- x[r2] op x[r1]` (44_register_register.md section 2; order by decision D10, log
entry 10). -/
def combineRegs (f : Word → Word → Word) (r1 r2 : Nibble) (s : State) : StepResult :=
  withRegs r1 r2 s fun ra rb =>
    .next ((s.setReg rb (f (s.reg rb) (s.reg ra))).setPc (s.nextPC 2))

/-- A change of one register, `x[r1] <- f x[r1]` (44_register_register.md R91 to R93). -/
def modifyReg (f : Word → Word) (r1 : Nibble) (s : State) : StepResult :=
  withReg r1 s fun ra => .next ((s.setReg ra (f (s.reg ra))).setPc (s.nextPC 2))

/-- ADDR (44_register_register.md R85). -/
def execAddr (r1 r2 : Nibble) (s : State) : StepResult := combineRegs addWords r1 r2 s

/-- SUBR (44_register_register.md R86). -/
def execSubr (r1 r2 : Nibble) (s : State) : StepResult := combineRegs subWords r1 r2 s

/-- MULR (44_register_register.md R87). -/
def execMulr (r1 r2 : Nibble) (s : State) : StepResult := combineRegs mulWords r1 r2 s

/-- DIVR (44_register_register.md R88): the register codes are checked before the divisor is tested. -/
def execDivr (r1 r2 : Nibble) (s : State) : StepResult :=
  withRegs r1 r2 s fun ra rb =>
    if s24 (s.reg ra) = 0 then raise .arithmeticError
    else .next ((s.setReg rb (divWords (s.reg rb) (s.reg ra))).setPc (s.nextPC 2))

/-- COMPR (44_register_register.md R89): `x[r1]` against `x[r2]`. -/
def execCompr (r1 r2 : Nibble) (s : State) : StepResult :=
  withRegs r1 r2 s fun ra rb =>
    .next ((s.setCC (s24 (s.reg ra)) (s24 (s.reg rb))).setPc (s.nextPC 2))

/-- SHIFTL (44_register_register.md R91): `r2` is a count, not a register code. -/
def execShiftl (r1 r2 : Nibble) (s : State) : StepResult :=
  modifyReg (fun v => rotateLeft24 v (shiftCount r2)) r1 s

/-- SHIFTR (44_register_register.md R92): `r2` is a count, not a register code. -/
def execShiftr (r1 r2 : Nibble) (s : State) : StepResult :=
  modifyReg (fun v => shiftRight24 v (shiftCount r2)) r1 s

/-- RMO (44_register_register.md R90): `x[r2] <- x[r1]`. -/
def execRmo (r1 r2 : Nibble) (s : State) : StepResult := combineRegs (fun _ v => v) r1 r2 s

/-- CLEAR (44_register_register.md R93): `r2` is ignored. -/
def execClear (r1 : Nibble) (s : State) : StepResult := modifyReg (fun _ => 0#24) r1 s

end Sys2Proof.Machine
end

