-- ==== Sys2Proof/Machine/Unsupported.lean ====
section
/-! DEFINITION. Machine/Unsupported.lean: the 27 opcode values with no handler (30_encoding.md R39, R40). The step has fetched
and decoded the whole instruction before one of these runs, so an absent byte is reported first (60_exceptions.md R100). -/

namespace Sys2Proof.Machine

/-- Dispatch on an opcode with no handler (60_exceptions.md R96): it depends on the opcode only. -/
def unsupported (op : Byte) : StepResult := raise (.unsupportedOpcode op)

/-- Opcode 0xB0: no handler (R96). -/
def execUnsupportedB0 (_s : State) : StepResult := unsupported 0xB0#8

/-- Opcode 0xB8: no handler (R96). -/
def execUnsupportedB8 (_s : State) : StepResult := unsupported 0xB8#8

/-- Opcode 0xC0: no handler (R96). -/
def execUnsupportedC0 (_s : State) : StepResult := unsupported 0xC0#8

/-- Opcode 0xC4: no handler (R96). -/
def execUnsupportedC4 (_s : State) : StepResult := unsupported 0xC4#8

/-- Opcode 0xC8: no handler (R96). -/
def execUnsupportedC8 (_s : State) : StepResult := unsupported 0xC8#8

/-- Opcode 0xF0: no handler (R96). -/
def execUnsupportedF0 (_s : State) : StepResult := unsupported 0xF0#8

/-- Opcode 0xF4: no handler (R96). -/
def execUnsupportedF4 (_s : State) : StepResult := unsupported 0xF4#8

/-- Opcode 0xF8: no handler (R96). -/
def execUnsupportedF8 (_s : State) : StepResult := unsupported 0xF8#8

/-- Opcode 0x58: no handler (R96). -/
def execUnsupported58 (_s : State) : StepResult := unsupported 0x58#8

/-- Opcode 0x5C: no handler (R96). -/
def execUnsupported5C (_s : State) : StepResult := unsupported 0x5C#8

/-- Opcode 0x60: no handler (R96). -/
def execUnsupported60 (_s : State) : StepResult := unsupported 0x60#8

/-- Opcode 0x64: no handler (R96). -/
def execUnsupported64 (_s : State) : StepResult := unsupported 0x64#8

/-- Opcode 0x70: no handler (R96). -/
def execUnsupported70 (_s : State) : StepResult := unsupported 0x70#8

/-- Opcode 0x80: no handler (R96). -/
def execUnsupported80 (_s : State) : StepResult := unsupported 0x80#8

/-- Opcode 0x88: no handler (R96). -/
def execUnsupported88 (_s : State) : StepResult := unsupported 0x88#8

/-- Opcode 0x8C: no handler (R96). -/
def execUnsupported8C (_s : State) : StepResult := unsupported 0x8C#8

/-- Opcode 0xBC: no handler (R96). -/
def execUnsupportedBC (_s : State) : StepResult := unsupported 0xBC#8

/-- Opcode 0xCC: no handler (R96). -/
def execUnsupportedCC (_s : State) : StepResult := unsupported 0xCC#8

/-- Opcode 0xD0: no handler (R96). -/
def execUnsupportedD0 (_s : State) : StepResult := unsupported 0xD0#8

/-- Opcode 0xD4: no handler (R96). -/
def execUnsupportedD4 (_s : State) : StepResult := unsupported 0xD4#8

/-- Opcode 0xD8: no handler (R96). -/
def execUnsupportedD8 (_s : State) : StepResult := unsupported 0xD8#8

/-- Opcode 0xDC: no handler (R96). -/
def execUnsupportedDC (_s : State) : StepResult := unsupported 0xDC#8

/-- Opcode 0xE0: no handler (R96). -/
def execUnsupportedE0 (_s : State) : StepResult := unsupported 0xE0#8

/-- Opcode 0xE4: no handler (R96). -/
def execUnsupportedE4 (_s : State) : StepResult := unsupported 0xE4#8

/-- Opcode 0xE8: no handler (R96). -/
def execUnsupportedE8 (_s : State) : StepResult := unsupported 0xE8#8

/-- Opcode 0xEC: no handler (R96). -/
def execUnsupportedEC (_s : State) : StepResult := unsupported 0xEC#8

/-- Opcode 0xFC: no handler (R96). -/
def execUnsupportedFC (_s : State) : StepResult := unsupported 0xFC#8

end Sys2Proof.Machine
end

