-- ==== Sys2Proof/Machine/Dispatch.lean ====
section
/-! DEFINITION. Machine/Dispatch.lean: dispatch on the opcode (40_execution_cycle.md R43), one arm per constructor. -/

namespace Sys2Proof.Machine

def exec (i : Instr) (s : State) : Host.Outcome State Fault Refusal :=
  match i with
  | .lda m => Sys2Proof.Machine.execLda m s
  | .ldx m => Sys2Proof.Machine.execLdx m s
  | .ldl m => Sys2Proof.Machine.execLdl m s
  | .sta m => Sys2Proof.Machine.execSta m s
  | .stx m => Sys2Proof.Machine.execStx m s
  | .stl m => Sys2Proof.Machine.execStl m s
  | .add m => Sys2Proof.Machine.execAdd m s
  | .sub m => Sys2Proof.Machine.execSub m s
  | .mul m => Sys2Proof.Machine.execMul m s
  | .div m => Sys2Proof.Machine.execDiv m s
  | .comp m => Sys2Proof.Machine.execComp m s
  | .tix m => Sys2Proof.Machine.execTix m s
  | .jeq m => Sys2Proof.Machine.execJeq m s
  | .jgt m => Sys2Proof.Machine.execJgt m s
  | .jlt m => Sys2Proof.Machine.execJlt m s
  | .j m => Sys2Proof.Machine.execJ m s
  | .and m => Sys2Proof.Machine.execAnd m s
  | .or m => Sys2Proof.Machine.execOr m s
  | .jsub m => Sys2Proof.Machine.execJsub m s
  | .rsub _ => Sys2Proof.Machine.execRsub s
  | .ldch m => Sys2Proof.Machine.execLdch m s
  | .stch m => Sys2Proof.Machine.execStch m s
  | .ldb m => Sys2Proof.Machine.execLdb m s
  | .lds m => Sys2Proof.Machine.execLds m s
  | .ldt m => Sys2Proof.Machine.execLdt m s
  | .stb m => Sys2Proof.Machine.execStb m s
  | .sts m => Sys2Proof.Machine.execSts m s
  | .stt m => Sys2Proof.Machine.execStt m s
  | .addr r1 r2 => Sys2Proof.Machine.execAddr r1 r2 s
  | .subr r1 r2 => Sys2Proof.Machine.execSubr r1 r2 s
  | .mulr r1 r2 => Sys2Proof.Machine.execMulr r1 r2 s
  | .divr r1 r2 => Sys2Proof.Machine.execDivr r1 r2 s
  | .compr r1 r2 => Sys2Proof.Machine.execCompr r1 r2 s
  | .shiftl r1 r2 => Sys2Proof.Machine.execShiftl r1 r2 s
  | .shiftr r1 r2 => Sys2Proof.Machine.execShiftr r1 r2 s
  | .rmo r1 r2 => Sys2Proof.Machine.execRmo r1 r2 s
  | .clear r1 _ => Sys2Proof.Machine.execClear r1 s
  | .unsupportedB0 _ _ => Sys2Proof.Machine.execUnsupportedB0 s
  | .unsupportedB8 _ _ => Sys2Proof.Machine.execUnsupportedB8 s
  | .unsupportedC0 => Sys2Proof.Machine.execUnsupportedC0 s
  | .unsupportedC4 => Sys2Proof.Machine.execUnsupportedC4 s
  | .unsupportedC8 => Sys2Proof.Machine.execUnsupportedC8 s
  | .unsupportedF0 => Sys2Proof.Machine.execUnsupportedF0 s
  | .unsupportedF4 => Sys2Proof.Machine.execUnsupportedF4 s
  | .unsupportedF8 => Sys2Proof.Machine.execUnsupportedF8 s
  | .unsupported58 _ => Sys2Proof.Machine.execUnsupported58 s
  | .unsupported5C _ => Sys2Proof.Machine.execUnsupported5C s
  | .unsupported60 _ => Sys2Proof.Machine.execUnsupported60 s
  | .unsupported64 _ => Sys2Proof.Machine.execUnsupported64 s
  | .unsupported70 _ => Sys2Proof.Machine.execUnsupported70 s
  | .unsupported80 _ => Sys2Proof.Machine.execUnsupported80 s
  | .unsupported88 _ => Sys2Proof.Machine.execUnsupported88 s
  | .unsupported8C _ => Sys2Proof.Machine.execUnsupported8C s
  | .unsupportedBC _ => Sys2Proof.Machine.execUnsupportedBC s
  | .unsupportedCC _ => Sys2Proof.Machine.execUnsupportedCC s
  | .unsupportedD0 _ => Sys2Proof.Machine.execUnsupportedD0 s
  | .unsupportedD4 _ => Sys2Proof.Machine.execUnsupportedD4 s
  | .unsupportedD8 _ => Sys2Proof.Machine.execUnsupportedD8 s
  | .unsupportedDC _ => Sys2Proof.Machine.execUnsupportedDC s
  | .unsupportedE0 _ => Sys2Proof.Machine.execUnsupportedE0 s
  | .unsupportedE4 _ => Sys2Proof.Machine.execUnsupportedE4 s
  | .unsupportedE8 _ => Sys2Proof.Machine.execUnsupportedE8 s
  | .unsupportedEC _ => Sys2Proof.Machine.execUnsupportedEC s
  | .unsupportedFC _ => Sys2Proof.Machine.execUnsupportedFC s

end Sys2Proof.Machine
end

