-- ==== Sys2Proof/Machine/Fetch.lean ====
section
/-! DEFINITION. Machine/Fetch.lean: fetching and decoding the instruction at the program counter (30_encoding.md R38,
60_exceptions.md R95), and placing an instruction's bytes where the fetch finds them. -/

namespace Sys2Proof.Machine

/-- The bytes from an address on, at most so many, up to the first that does not exist. The addresses are plain integers, not
reduced modulo 2^24 (20_memory.md R25). -/
def State.bytesFrom (s : State) (addr : Nat) : Nat → List Byte
  | 0 => []
  | n + 1 =>
    if s.inBounds addr 1 then Memory.byteAt s.mem addr :: s.bytesFrom (addr + 1) n else []

/-- The bytes the fetch can read: those of the four from `PC` on that exist (30_encoding.md R38). -/
def State.fetchWindow (s : State) : List Byte := s.bytesFrom s.pc.toNat 4

/-- `Decode(pc0)` on memory (30_encoding.md R38): the first byte that is needed and does not exist raises `AddressError` with
its address. -/
def State.fetch (s : State) : Except Fault Instr :=
  match decode s.fetchWindow with
  | .ok (instr, _) => .ok instr
  | .error (.missingByte k) => .error (.addressError ((s.pc.toNat + k : Nat) : Int))
  | .error (.noRow op) => .error (.unsupportedOpcode op)

/-- Bytes stored from an address on; those at an address that does not exist are dropped. -/
def State.placeBytes (s : State) (addr : Nat) : List Byte → State
  | [] => s
  | v :: rest =>
    State.placeBytes (if s.inBounds addr 1 then s.setMemByte addr v else s) (addr + 1) rest

end Sys2Proof.Machine
end

