-- ==== Sys2Proof/Machine/Step.lean ====
section
/-! DEFINITION. Machine/Step.lean: one step of the machine (40_execution_cycle.md R43, 70_reset_and_hazards.md R110). -/

namespace Sys2Proof.Machine

/-- `Step()` (40_execution_cycle.md R43): fetch and decode at `PC`, then dispatch. -/
def step (s : State) : Host.Outcome State Fault Refusal := orRaise s.fetch fun instr => exec instr s

/-- `s` with an instruction of the opcode table stored where the next step fetches, as the host's `loadWord` would place it
(70_reset_and_hazards.md R109, R112; log entry 35). -/
def State.withFetchWord (s : State) (nbits w : Nat) : State :=
  s.placeBytes s.pc.toNat (tableBytes nbits w)

end Sys2Proof.Machine
end

