-- ==== Sys2Proof/Machine/HostOps.lean ====
section
/-! DEFINITION. Machine/HostOps.lean: the host interface (70_reset_and_hazards.md R107 to R111): construct, load a word, step,
reset, read. Each is one atomic transaction between steps (20_memory.md R27(d)). -/

namespace Sys2Proof.Machine

/-- `construct(MEM_WORDS)` (70_reset_and_hazards.md R107, 60_exceptions.md R99): every register and every byte zero (decision
D16, log entry 16). More words than 00_scope.md R4 permits are refused (U10, log entry 15). -/
def construct (words : Int) : StepResult :=
  if words ≤ 0 then raise (.configurationError words)
  else if words ≤ Config.maxMemWords then .next { State.reset with memWords := words.toNat }
  else .refused (.memoryTooLarge words)

/-- `reset(CLEAR_MEMORY)` (70_reset_and_hazards.md R108; the boolean by decision D19, log entry 19). -/
def State.hostReset (s : State) (clearMemory : Bool) : State :=
  { s with
    regA := 0#24, regX := 0#24, regL := 0#24, regB := 0#24, regS := 0#24, regT := 0#24, pc := 0#24, sw := 0#24
    mem := if clearMemory then [] else s.mem }

/-- The address of a host access as a place in memory: a negative one is an `AddressError` (20_memory.md R17 to R20). -/
def hostAddress (addr : Int) : Except Fault Nat :=
  match addr with
  | .ofNat a => .ok a
  | .negSucc _ => .error (.addressError addr)

/-- `loadWord(byteAddress, value)` is `MemWrite(byteAddress, 3, value)` (70_reset_and_hazards.md R109). -/
def State.loadWord (s : State) (addr value : Int) : Except Fault State :=
  match hostAddress addr with
  | .error kind => .error kind
  | .ok a => s.writeWord a (mask24 value)

/-- The host's read of one of the eight registers (70_reset_and_hazards.md R111). -/
def State.readReg (s : State) : RegId → Word
  | .general r => s.reg r
  | .pc => s.pc
  | .sw => s.sw

/-- `get(identifier)` for the host's read accessors (10_state.md R11, 60_exceptions.md R98). -/
def State.readNamed (s : State) (name : String) : Except Fault Word :=
  match RegId.ofName name with
  | some r => .ok (s.readReg r)
  | none => .error (.unknownRegister name)

/-- The host's read of a memory byte (70_reset_and_hazards.md R111). -/
def State.hostReadByte (s : State) (addr : Int) : Except Fault Byte :=
  match hostAddress addr with
  | .error kind => .error kind
  | .ok a => s.readByte a

/-- The host's read of a memory word at any byte address (70_reset_and_hazards.md R111). -/
def State.hostReadWord (s : State) (addr : Int) : Except Fault Word :=
  match hostAddress addr with
  | .error kind => .error kind
  | .ok a => s.readWord a

/-- A host transaction on an existing machine (70_reset_and_hazards.md R108 to R111). -/
inductive HostOp where
  | loadWord (addr value : Int)
  | step
  | reset (clearMemory : Bool)
  /-- a register's unsigned view -/
  | readUnsigned (r : RegId)
  /-- a register's signed view -/
  | readSigned (r : RegId)
  /-- a register's unsigned view, by name -/
  | readNamed (name : String)
  | readByte (addr : Int)
  | readWord (addr : Int)
deriving DecidableEq, Repr

/-- What the host is told. -/
inductive HostReply where
  /-- `ok` -/
  | done
  /-- the value read -/
  | value (v : Int)
  /-- the error kind; nothing changed -/
  | fault (kind : Fault)
  /-- the model gives no meaning; no transaction answers so -/
  | refused (r : Refusal)
deriving DecidableEq, Repr

/-- The reply of a read: it changes no state. -/
def replyValue {α : Type} (f : α → Int) (r : Except Fault α) : HostReply :=
  match r with
  | .ok v => .value (f v)
  | .error kind => .fault kind

/-- One transaction: the reply, and the state after it. On an error the state is the one before
(40_execution_cycle.md R45, 60_exceptions.md R101). -/
def State.transact (s : State) (op : HostOp) : HostReply × State :=
  match op with
  | .loadWord addr value =>
    match s.loadWord addr value with
    | .ok t => (.done, t)
    | .error kind => (.fault kind, s)
  | .step =>
    match Sys2Proof.Machine.step s with
    | .next t => (.done, t)
    | .fault kind => (.fault kind, s)
    | .refused r => (.refused r, s)
  | .reset clearMemory => (.done, s.hostReset clearMemory)
  | .readUnsigned r => (.value (u24 (s.readReg r)), s)
  | .readSigned r => (.value (s24 (s.readReg r)), s)
  | .readNamed name => (replyValue u24 (s.readNamed name), s)
  | .readByte addr => (replyValue (fun v => (v.toNat : Int)) (s.hostReadByte addr), s)
  | .readWord addr => (replyValue u24 (s.hostReadWord addr), s)

/-- A sequence of transactions, in the order the host issues them (20_memory.md R27(d)). -/
def State.transactAll (s : State) : List HostOp → State
  | [] => s
  | op :: rest => State.transactAll (s.transact op).2 rest

end Sys2Proof.Machine
end

