-- ==== Sys2Proof/Safety.lean ====
section
/-! DEFINITION. Safety.lean: the invariant of the machine's states, which registers and bytes an instruction may write, and
when a run has ended, in the terms the statements use. -/

namespace Sys2Proof.Machine

/-! ## The invariant -/

/-- `SW` holds one of its three values (10_state.md R10). -/
abbrev State.swLegal (s : State) : Prop := s.sw = 0xFFFFFF#24 ∨ s.sw = 0#24 ∨ s.sw = 1#24

/-- What holds of every state the machine can be in: the memory size is permitted (00_scope.md R4), memory is in canonical
form and lies inside `0 .. SIZE-1` (20_memory.md R16), and `SW` is legal (10_state.md R10). -/
structure State.Inv (s : State) : Prop where
  memWords_pos : 1 ≤ s.memWords
  memWords_le : s.memWords ≤ Config.maxMemWords
  mem_wf : Memory.wf s.mem
  mem_inside : ∀ c ∈ s.mem, c.1 < s.size
  sw_legal : s.swLegal

/-! ## What an instruction may write -/

/-- The general register a completing instruction may write, with `none` where it writes none (10_state.md R6 "written
implicitly by"; 44_register_register.md R85 to R93 for format 2). -/
def writtenReg (i : Instr) : Option GReg :=
  match i with
  | .lda _ | .ldch _ | .add _ | .sub _ | .mul _ | .div _ | .and _ | .or _ => some .a
  | .ldx _ | .tix _ => some .x
  | .ldl _ | .jsub _ => some .l
  | .ldb _ => some .b
  | .lds _ => some .s
  | .ldt _ => some .t
  | .addr _ r2 | .subr _ r2 | .mulr _ r2 | .divr _ r2 | .rmo _ r2 => regOfCode r2
  | .shiftl r1 _ | .shiftr r1 _ | .clear r1 _ => regOfCode r1
  | _ => none

/-- The bytes an instruction stores to, as address and length, with `none` where it stores nothing (20_memory.md R23). -/
def storedBytes (i : Instr) (s : State) : Option (Nat × Nat) :=
  match i with
  | .sta m | .stx m | .stl m | .stb m | .sts m | .stt m => some ((targetAddress m s).toNat, 3)
  | .stch m => some ((targetAddress m s).toNat, 1)
  | _ => none

/-- The comparison-class instructions, the only writers of `CC` (10_state.md R9). -/
def isComparison (i : Instr) : Bool :=
  match i with
  | .comp _ | .tix _ | .compr _ _ => true
  | _ => false

/-- The conditional branches, the only readers of `CC` (10_state.md R9). -/
def isConditionalBranch (i : Instr) : Bool :=
  match i with
  | .jeq _ | .jgt _ | .jlt _ => true
  | _ => false

/-! ## Runs -/

/-- A step that completes (70_reset_and_hazards.md R110: `ok`). -/
def State.completes (s : State) : Prop := ∃ t, step s = .next t

/-- The end of a test program's run: a completed step that leaves `PC` unchanged (70_reset_and_hazards.md R116, a convention of
the spec's own, decision D32; the core itself has no halt, R55 of 40_execution_cycle.md). -/
def State.finished (s : State) : Prop := ∃ t, step s = .next t ∧ t.pc = s.pc

end Sys2Proof.Machine
end

