-- ==== Sys2Proof/Certificates/Slice0/Obligations.lean ====
section
/-! DEFINITION. Certificates/Slice0/Obligations.lean: the statements for the provers. `s`, `t` are states, `m` the operand
fields of a format-3/4 instruction. A statement about every state that needs canonical memory has `Memory.wf` as a premise;
that the machine keeps it is `StepKeepsInvariant` and `EveryHostRunKeepsInvariant`. -/

open Sys2Proof Sys2Proof.Machine

/-! ## Reset, construction and the host -/

/-- 10_state.md R15: what the reset state holds (after construction by decision D16, log entry 16). The memory
size is the model's choice (log entry 15) and is not stated. -/
def Obligations.ResetStateHoldsZeroEverywhere : Prop :=
  (∀ q : RegId, State.reset.readReg q = 0#24) ∧ State.reset.cc = 0 ∧
    ∀ a : Nat, Memory.byteAt State.reset.mem a = 0#8

/-- 70_reset_and_hazards.md R107, 60_exceptions.md R99; zeroed contents by decision D16 (log entry 16), the upper bound by
decision D15 (log entry 15). -/
def Obligations.ConstructBuildsZeroedMachineOrFails : Prop :=
  ∀ words : Int,
    (words ≤ 0 → construct words = .fault (.configurationError words)) ∧
    (1 ≤ words → words ≤ 5592405 → ∃ t, construct words = .next t ∧ (t.size : Int) = 3 * words ∧
      (∀ q : RegId, t.readReg q = 0#24) ∧ t.cc = 0 ∧ ∀ a : Nat, Memory.byteAt t.mem a = 0#8) ∧
    (5592405 < words → construct words = .refused (.memoryTooLarge words))

/-- 70_reset_and_hazards.md R108 (the boolean argument by decision D19, log entry 19). -/
def Obligations.HostResetZeroesRegistersAndOptionallyMemory : Prop :=
  ∀ (s : State) (clear : Bool),
    (s.transact (.reset clear)).1 = .done ∧
    (∀ q : RegId, (s.transact (.reset clear)).2.readReg q = 0#24) ∧
    (s.transact (.reset clear)).2.cc = 0 ∧
    (s.transact (.reset clear)).2.size = s.size ∧
    ∀ a : Nat, Memory.byteAt (s.transact (.reset clear)).2.mem a =
      if clear then 0#8 else Memory.byteAt s.mem a

/-- 10_state.md R7: a write of any integer stores its 24-bit pattern; the unsigned and the signed view of a stored pattern. -/
def Obligations.RegistersStoreMaskedAndReadInTwoViews : Prop :=
  (∀ (s : State) (v : Int) (r : GReg),
    u24 ((s.setReg r (mask24 v)).readReg (.general r)) = v % 2 ^ 24 ∧
    u24 ((s.setPc (mask24 v)).readReg .pc) = v % 2 ^ 24 ∧
    u24 ((s.setSw (mask24 v)).readReg .sw) = v % 2 ^ 24) ∧
  (∀ (s : State) (q : RegId),
    0 ≤ u24 (s.readReg q) ∧ u24 (s.readReg q) ≤ 2 ^ 24 - 1 ∧
    s24 (s.readReg q) =
      if u24 (s.readReg q) < 2 ^ 23 then u24 (s.readReg q) else u24 (s.readReg q) - 2 ^ 24) ∧
  (∀ (s : State) (r : GReg),
    s24 ((s.setReg r 0xFFFFFF#24).reg r) = -1 ∧ u24 ((s.setReg r 0xFFFFFF#24).reg r) = 16777215)

/-- 10_state.md R11: the lookup by numeric code and the lookup by name. -/
def Obligations.RegisterLookupByCodeAndByName : Prop :=
  (∀ c : Nibble,
    (c.toNat ≤ 5 → ∃ r, regOfCode c = some r ∧ RegId.code (.general r) = (c.toNat : Int)) ∧
    (6 ≤ c.toNat → regOfCode c = none)) ∧
  (∀ q : RegId, ∃ name, RegId.ofName name = some q) ∧
  ∀ (s : State) (name : String),
    (∀ q, RegId.ofName name = some q → s.readNamed name = .ok (s.readReg q)) ∧
    (RegId.ofName name = none → s.readNamed name = .error (.unknownRegister name))

/-! ## The access primitives -/

/-- 20_memory.md R17: byte read, for any integer address. -/
def Obligations.ByteReadChecksBounds : Prop :=
  ∀ (s : State) (addr : Int),
    ((addr < 0 ∨ (s.size : Int) ≤ addr) → s.hostReadByte addr = .error (.addressError addr)) ∧
    (0 ≤ addr → addr < s.size → s.hostReadByte addr = .ok (Memory.byteAt s.mem addr.toNat))

/-- 20_memory.md R18: byte write; the value is masked to 8 bits, the bounds rule is that of the byte read. -/
def Obligations.ByteWriteChangesOneByte : Prop :=
  ∀ (s : State) (addr : Nat) (v : Int), Memory.wf s.mem →
    (s.size ≤ addr → s.writeByte addr (BitVec.ofInt 8 v) = .error (.addressError addr)) ∧
    (addr < s.size → ∃ t, s.writeByte addr (BitVec.ofInt 8 v) = .ok t ∧
      t = { s with mem := t.mem } ∧
      ((Memory.byteAt t.mem addr).toNat : Int) = v % 256 ∧
      ∀ b, b ≠ addr → Memory.byteAt t.mem b = Memory.byteAt s.mem b)

/-- 20_memory.md R19: word read, for any integer address; the span is checked without reduction modulo 2^24. -/
def Obligations.WordReadIsBigEndianAndChecksSpan : Prop :=
  ∀ (s : State) (addr : Int),
    ((addr < 0 ∨ (s.size : Int) ≤ addr + 2) → s.hostReadWord addr = .error (.addressError addr)) ∧
    (0 ≤ addr → addr + 2 < s.size → ∃ w, s.hostReadWord addr = .ok w ∧
      w.toNat = (Memory.byteAt s.mem addr.toNat).toNat * 2 ^ 16 +
        (Memory.byteAt s.mem (addr.toNat + 1)).toNat * 2 ^ 8 +
        (Memory.byteAt s.mem (addr.toNat + 2)).toNat) ∧
    (s.memWords ≤ 5592405 → s.hostReadWord 0xFFFFFE = .error (.addressError 0xFFFFFE))

/-- 20_memory.md R20: word write, for any integer address and value: no partial write, big-endian bytes of the masked value,
and reading back gives the masked value. -/
def Obligations.WordWriteIsAtomicMaskedAndReadsBack : Prop :=
  ∀ (s : State) (addr v : Int), Memory.wf s.mem →
    ((addr < 0 ∨ (s.size : Int) ≤ addr + 2) →
      s.transact (.loadWord addr v) = (.fault (.addressError addr), s)) ∧
    (0 ≤ addr → addr + 2 < s.size → ∃ t, s.transact (.loadWord addr v) = (.done, t) ∧
      t = { s with mem := t.mem } ∧
      ((Memory.byteAt t.mem addr.toNat).toNat : Int) = v / 2 ^ 16 % 256 ∧
      ((Memory.byteAt t.mem (addr.toNat + 1)).toNat : Int) = v / 2 ^ 8 % 256 ∧
      ((Memory.byteAt t.mem (addr.toNat + 2)).toNat : Int) = v % 256 ∧
      (∀ b, (b < addr.toNat ∨ addr.toNat + 2 < b) →
        Memory.byteAt t.mem b = Memory.byteAt s.mem b) ∧
      ∃ w, t.hostReadWord addr = .ok w ∧ u24 w = v % 2 ^ 24)

/-! ## Encoding and decoding -/

/-- 30_encoding.md R33 to R38: decoding an encoded well-formed instruction gives it back, for every instruction. -/
def Obligations.DecodeOfEncodeIsIdentity : Prop :=
  ∀ (i : Instr) (rest : List Byte), WellFormed i = true → decode (encode i ++ rest) = .ok (i, rest)

/-- 30_encoding.md R33 to R38: the bytes an instruction was decoded from are its encoding, but for the two ignored bits of
byte 1 in formats 1 and 2, and what is decoded is well-formed. -/
def Obligations.EncodeOfDecodeUpToIgnoredBits : Prop :=
  ∀ (bytes rest : List Byte) (i : Instr), decode bytes = .ok (i, rest) →
    WellFormed i = true ∧ ∃ (byte1 : Byte) (tail : List Byte),
      bytes = byte1 :: tail ++ rest ∧
      opcodeOf byte1 :: tail = opcodeOf ((encode i).headD 0#8) :: (encode i).tail ∧
      ((∃ m, i.shape = .memory m) → byte1 :: tail = encode i)

/-- 30_encoding.md R30, R31, R38: no bit pattern is rejected; format and length depend on byte 1's six high bits and on `e`. -/
def Obligations.EveryFourBytesDecode : Prop :=
  ∀ (b1 b2 b3 b4 : Byte) (rest : List Byte), ∃ i after,
    decode (b1 :: b2 :: b3 :: b4 :: rest) = .ok (i, after) ∧
    i.opcode = b1 &&& 0xFC#8 ∧
    i.length = match opcodeFormat (b1 &&& 0xFC#8) with
      | .one => 1
      | .two => 2
      | .threeFour => if b2.getLsbD 4 then 4 else 3

/-- 30_encoding.md R32, R39 (table contents by decisions D2 and D3, log entries 2 and 3): the opcode map has a row for exactly
the multiples of 4, and each row has the base format of the opcode-format table. -/
def Obligations.OpcodeMapCoversTheSixtyFourOpcodes : Prop :=
  ∀ op : Byte,
    ((opcodeRow op).isSome = true ↔ op &&& 3#8 = 0#8) ∧
    ∀ row, opcodeRow op = some row →
      ((∃ i, row = .format1 i) ↔ opcodeFormat op = .one) ∧
      ((∃ mk, row = .format2 mk) ↔ opcodeFormat op = .two) ∧
      ((∃ mk, row = .memory mk) ↔ opcodeFormat op = .threeFour)

/-- 30_encoding.md R38, R39: words written out from the encoding tables decode to the instructions they stand for (opcode
numbers other than 00 0C 18 4C by decision D2, log entry 2). -/
def Obligations.SpecEncodingsDecode : Prop :=
  decodeTableWord 24 0x0F0100 = some (.sta (.format3 ⟨true, true, false, false, false⟩ 256)) ∧
  decodeTableWord 24 0x3B2FF7 = some (.jlt (.format3 ⟨true, true, false, false, true⟩ (-9))) ∧
  decodeTableWord 32 0x69100200 = some (.ldb (.format4 ⟨false, true, false, false, false⟩ 0x200#20)) ∧
  decodeTableWord 16 0x9840 = some (.mulr 4#4 0#4) ∧
  decodeTableWord 16 0xB75A = some (.clear 5#4 10#4) ∧
  decodeTableWord 8 0xC7 = some .unsupportedC4 ∧
  decodeTableWord 32 0xFFFFFFFF = some (.unsupportedFC (.format4 ⟨true, true, true, true, true⟩ 0xFFFFF#20))

/-! ## Fetch and step -/

/-- 40_execution_cycle.md R43: when the bytes at `PC` decode to an instruction, the step is that instruction's execution. -/
def Obligations.StepRunsDecodedInstruction : Prop :=
  ∀ (s : State) (i : Instr) (rest : List Byte),
    decode s.fetchWindow = .ok (i, rest) → step s = exec i s

/-- 40_execution_cycle.md R43, 20_memory.md R29, 30_encoding.md R33, R34, R38, R40: when bytes that decode to an instruction,
with none left over, stand in memory at `PC`, the step is that instruction's execution, with nothing added. The bytes need not
be those the encoder writes: the ignored bits of byte 1 may hold anything. -/
def Obligations.StepRunsInstructionEncodedInMemory : Prop :=
  ∀ (s : State) (bytes : List Byte) (i : Instr), decode bytes = .ok (i, []) →
    s.pc.toNat + bytes.length ≤ s.size →
    (∀ (k : Nat) (v : Byte), bytes[k]? = some v → Memory.byteAt s.mem (s.pc.toNat + k) = v) →
    step s = exec i s

/-- 30_encoding.md R38, R40, 60_exceptions.md R95: fetch can fail only with an `AddressError` at the first of the instruction's
bytes that does not exist; it fails so when `PC` itself does not exist; and it succeeds only where every byte of the
instruction exists. No wrap at 2^24 is decision D5, log entry 5. -/
def Obligations.FetchFailsAtFirstMissingByte : Prop :=
  ∀ s : State,
    (s.size ≤ s.pc.toNat → step s = .fault (.addressError s.pc.toNat)) ∧
    (∀ e, s.fetch = .error e → ∃ k : Nat, k ≤ 3 ∧ e = .addressError ((s.pc.toNat + k : Nat) : Int) ∧
      s.size ≤ s.pc.toNat + k ∧ ∀ j, j < k → s.pc.toNat + j < s.size) ∧
    (∀ i, s.fetch = .ok i → s.pc.toNat + i.length ≤ s.size)

/-! ## Effective address and operands -/

/-- 40_execution_cycle.md R46: format 3, `p` before `b`; the direct displacement of a field 0x800 to 0xFFF gives 0xFF800 to
0xFFFFF. Indexing and the final reduction are R48 of the same file. -/
def Obligations.Format3EffectiveAddress : Prop :=
  (∀ (fl : AddrFlags) (disp : Int) (s : State),
    effectiveAddress (.format3 fl disp) s =
      (if fl.p then s.pc + 3#24 + BitVec.ofInt 24 disp
        else if fl.b then s.regB + BitVec.ofInt 24 disp
        else (BitVec.ofInt 20 disp).setWidth 24) + (if fl.x then s.regX else 0#24)) ∧
  (∀ (fl : AddrFlags) (disp : Int) (s : State), fl.p = false → fl.b = false → fl.x = false →
    -2048 ≤ disp → disp ≤ 2047 →
    u24 (effectiveAddress (.format3 fl disp) s) = if disp < 0 then 2 ^ 20 + disp else disp)

/-- 40_execution_cycle.md R47: format 4, `b` before `p`; the address field is unsigned. -/
def Obligations.Format4EffectiveAddress : Prop :=
  ∀ (fl : AddrFlags) (addr : BitVec 20) (s : State),
    effectiveAddress (.format4 fl addr) s =
      (if fl.b then s.regB + addr.setWidth 24
        else if fl.p then s.pc + 4#24 + addr.setWidth 24
        else addr.setWidth 24) + (if fl.x then s.regX else 0#24)

/-- 40_execution_cycle.md R49 (the pointer's width by decision D31, log entry 31): the four rows of the operand table. -/
def Obligations.OperandTableRows : Prop :=
  ∀ (m : MemRef) (s : State),
    (m.flags.n = false → m.flags.i = true → operandWord m s = .ok (effectiveAddress m s)) ∧
    (m.flags.n = m.flags.i → operandWord m s = s.readWord (effectiveAddress m s).toNat) ∧
    (m.flags.n = true → m.flags.i = false →
      (∀ p, s.readWord (effectiveAddress m s).toNat = .ok p →
        operandWord m s = s.readWord p.toNat) ∧
      (s.size ≤ (effectiveAddress m s).toNat + 2 →
        operandWord m s = .error (.addressError (effectiveAddress m s).toNat)))

/-- 40_execution_cycle.md R51 (decision D8, log entry 8, is the spec's own choice): the byte operand. -/
def Obligations.ByteOperandRows : Prop :=
  ∀ (m : MemRef) (s : State),
    (m.flags.n = false → m.flags.i = true →
      operandByte m s = .ok ((effectiveAddress m s).extractLsb' 0 8)) ∧
    (m.flags.n = m.flags.i → operandByte m s = s.readByte (effectiveAddress m s).toNat) ∧
    (m.flags.n = true → m.flags.i = false →
      (∀ p, s.readWord (effectiveAddress m s).toNat = .ok p →
        operandByte m s = s.readByte p.toNat) ∧
      (s.size ≤ (effectiveAddress m s).toNat + 2 →
        operandByte m s = .error (.addressError (effectiveAddress m s).toNat)))

/-- 40_execution_cycle.md R49, 30_encoding.md R41: every format-3/4 instruction behaves under `n = 0, i = 0` as under
`n = 1, i = 1`. -/
def Obligations.DegenerateModeIsSimpleMode : Prop :=
  ∀ (op : Byte) (mk : MemRef → Instr) (x b p : Bool) (disp : Int) (addr : BitVec 20) (s : State),
    opcodeRow op = some (.memory mk) →
    exec (mk (.format3 ⟨false, false, x, b, p⟩ disp)) s =
      exec (mk (.format3 ⟨true, true, x, b, p⟩ disp)) s ∧
    exec (mk (.format4 ⟨false, false, x, b, p⟩ addr)) s =
      exec (mk (.format4 ⟨true, true, x, b, p⟩ addr)) s

/-! ## Loads and stores -/

/-- 41_load_store.md R56 to R61: LDA LDX LDL LDB LDS LDT with a readable operand. Nothing but the register and `PC` changes. -/
def Obligations.WordLoadsReplaceTheRegister : Prop :=
  ∀ (m : MemRef) (s : State) (v : Word), operandWord m s = .ok v →
    exec (.lda m) s = .next { s with regA := v, pc := s.pc + BitVec.ofNat 24 m.length } ∧
    exec (.ldx m) s = .next { s with regX := v, pc := s.pc + BitVec.ofNat 24 m.length } ∧
    exec (.ldl m) s = .next { s with regL := v, pc := s.pc + BitVec.ofNat 24 m.length } ∧
    exec (.ldb m) s = .next { s with regB := v, pc := s.pc + BitVec.ofNat 24 m.length } ∧
    exec (.lds m) s = .next { s with regS := v, pc := s.pc + BitVec.ofNat 24 m.length } ∧
    exec (.ldt m) s = .next { s with regT := v, pc := s.pc + BitVec.ofNat 24 m.length }

/-- 41_load_store.md R56 to R61, 42_arithmetic_compare_logic.md R70 to R77: where the operand cannot be read, the fourteen
instructions that resolve a word operand end in that `AddressError`, DIV before its test for zero (order of the checks by
decision D26, log entry 26). -/
def Obligations.UnreadableOperandFaultsBeforeAnyEffect : Prop :=
  ∀ (m : MemRef) (s : State) (e : Fault), operandWord m s = .error e →
    ∀ i ∈ [Instr.lda m, .ldx m, .ldl m, .ldb m, .lds m, .ldt m, .add m, .sub m, .mul m, .div m,
      .comp m, .and m, .or m, .tix m],
      exec i s = .fault e ∧ ∃ a : Nat, e = .addressError a ∧ s.size ≤ a + 2

/-- 41_load_store.md R68 (which byte by decision D8, log entry 8): LDCH replaces bits 7:0 of `A` and keeps bits 23:8. -/
def Obligations.CharacterLoadKeepsUpperBits : Prop :=
  ∀ (m : MemRef) (s : State),
    (∀ c : Byte, operandByte m s = .ok c →
      exec (.ldch m) s = .next { s with
        regA := (s.regA &&& 0xFFFF00#24) ||| c.setWidth 24
        pc := s.pc + BitVec.ofNat 24 m.length }) ∧
    (∀ e, operandByte m s = .error e → exec (.ldch m) s = .fault e)

/-- 41_load_store.md R62 to R67 (address `ea` for every n i by decision D7, log entry 7): STA STX STL STB STS STT, where the
word at the target exists: the register's three bytes, big-endian, every other byte and every register but `PC` as before. -/
def Obligations.WordStoresWriteThreeBytes : Prop :=
  ∀ (m : MemRef) (s : State), Memory.wf s.mem → (targetAddress m s).toNat + 2 < s.size →
    ∀ p ∈ [(Instr.sta m, s.regA), (.stx m, s.regX), (.stl m, s.regL), (.stb m, s.regB),
        (.sts m, s.regS), (.stt m, s.regT)],
      ∃ t, exec p.1 s = .next t ∧
        t = { s with mem := t.mem, pc := s.pc + BitVec.ofNat 24 m.length } ∧
        t.readWord (targetAddress m s).toNat = .ok p.2 ∧
        Memory.byteAt t.mem (targetAddress m s).toNat = p.2.extractLsb' 16 8 ∧
        Memory.byteAt t.mem ((targetAddress m s).toNat + 1) = p.2.extractLsb' 8 8 ∧
        Memory.byteAt t.mem ((targetAddress m s).toNat + 2) = p.2.extractLsb' 0 8 ∧
        ∀ a : Nat, (a < (targetAddress m s).toNat ∨ (targetAddress m s).toNat + 2 < a) →
          Memory.byteAt t.mem a = Memory.byteAt s.mem a

/-- 41_load_store.md R69 (decisions D7 and D8, log entries 7 and 8): STCH changes exactly one byte, and the last byte of memory
is a valid target. -/
def Obligations.CharacterStoreWritesOneByte : Prop :=
  ∀ (m : MemRef) (s : State), Memory.wf s.mem → (targetAddress m s).toNat < s.size →
    ∃ t, exec (.stch m) s = .next t ∧
      t = { s with mem := t.mem, pc := s.pc + BitVec.ofNat 24 m.length } ∧
      Memory.byteAt t.mem (targetAddress m s).toNat = s.regA.extractLsb' 0 8 ∧
      ∀ a : Nat, a ≠ (targetAddress m s).toNat → Memory.byteAt t.mem a = Memory.byteAt s.mem a

/-- 41_load_store.md R62 to R67, R69 (target by decision D7, span by D6, the byte of STCH by D8, log entries 7, 6 and 8): a
store whose bytes do not all exist is an `AddressError` at the target address. -/
def Obligations.StoresOutsideMemoryFault : Prop :=
  ∀ (m : MemRef) (s : State),
    (s.size ≤ (targetAddress m s).toNat + 2 →
      ∀ i ∈ [Instr.sta m, .stx m, .stl m, .stb m, .sts m, .stt m],
        exec i s = .fault (.addressError (targetAddress m s).toNat)) ∧
    (s.size ≤ (targetAddress m s).toNat →
      exec (.stch m) s = .fault (.addressError (targetAddress m s).toNat))

/-! ## Accumulator arithmetic, logic, compare -/

/-- 42_arithmetic_compare_logic.md R70: opcode 0x18 in format 3 or 4 is ADD; it is the signed sum reduced to 24 bits, the same
as the unsigned one; `CC` is not written; an unreadable operand is the only error. -/
def Obligations.AddWrapsAtTwentyFourBits : Prop :=
  opcodeRow 0x18#8 = some (.memory .add) ∧ ∀ (m : MemRef) (s : State),
    (∀ v, operandWord m s = .ok v →
      exec (.add m) s =
        .next { s with regA := s.regA + v, pc := s.pc + BitVec.ofNat 24 m.length } ∧
      s24 (s.regA + v) = Int.bmod (s24 s.regA + s24 v) (2 ^ 24) ∧
      u24 (s.regA + v) = (u24 s.regA + u24 v) % 2 ^ 24) ∧
    (∀ e, operandWord m s = .error e → exec (.add m) s = .fault e)

/-- 42_arithmetic_compare_logic.md R71 (operand order by decision D10, log entry 10): SUB is accumulator minus operand. -/
def Obligations.SubIsAccumulatorMinusOperand : Prop :=
  ∀ (m : MemRef) (s : State) (v : Word), operandWord m s = .ok v →
    exec (.sub m) s =
      .next { s with regA := s.regA - v, pc := s.pc + BitVec.ofNat 24 m.length } ∧
    s24 (s.regA - v) = Int.bmod (s24 s.regA - s24 v) (2 ^ 24)

/-- 42_arithmetic_compare_logic.md R72: MUL keeps the low 24 bits of the exact product, the same for signed and unsigned inputs;
an unreadable operand is the only error. -/
def Obligations.MulKeepsLowBitsOfProduct : Prop :=
  ∀ (m : MemRef) (s : State),
    (∀ v, operandWord m s = .ok v →
      exec (.mul m) s =
        .next { s with regA := s.regA * v, pc := s.pc + BitVec.ofNat 24 m.length } ∧
      s24 (s.regA * v) = Int.bmod (s24 s.regA * s24 v) (2 ^ 24) ∧
      u24 (s.regA * v) = (u24 s.regA * u24 v) % 2 ^ 24) ∧
    (∀ e, operandWord m s = .error e → exec (.mul m) s = .fault e)

/-- 42_arithmetic_compare_logic.md R73 (rounding by decision D9, log entry 9): DIV rounds toward zero, wraps in its one
overflow case, and fails on a zero operand. -/
def Obligations.DivTruncatesTowardZero : Prop :=
  ∀ (m : MemRef) (s : State) (v : Word), operandWord m s = .ok v →
    (v = 0#24 → exec (.div m) s = .fault .arithmeticError) ∧
    (v ≠ 0#24 → exec (.div m) s =
      .next { s with regA := s.regA.sdiv v, pc := s.pc + BitVec.ofNat 24 m.length }) ∧
    (v ≠ 0#24 → ¬(s.regA = 0x800000#24 ∧ v = 0xFFFFFF#24) →
      s24 (s.regA.sdiv v) = Int.tdiv (s24 s.regA) (s24 v)) ∧
    (s.regA = 0x800000#24 → v = 0xFFFFFF#24 → s.regA.sdiv v = 0x800000#24)

/-- 42_arithmetic_compare_logic.md R75, R76: AND and OR, bit by bit over bits 23:0; `CC` is not written; an unreadable operand
is the only error. -/
def Obligations.AndOrAreBitwise : Prop :=
  ∀ (m : MemRef) (s : State),
    (∀ v, operandWord m s = .ok v →
      (∃ t, exec (.and m) s = .next t ∧
        t = { s with regA := t.regA, pc := s.pc + BitVec.ofNat 24 m.length } ∧
        ∀ k, t.regA.getLsbD k = (s.regA.getLsbD k && v.getLsbD k)) ∧
      (∃ t, exec (.or m) s = .next t ∧
        t = { s with regA := t.regA, pc := s.pc + BitVec.ofNat 24 m.length } ∧
        ∀ k, t.regA.getLsbD k = (s.regA.getLsbD k || v.getLsbD k))) ∧
    (∀ e, operandWord m s = .error e →
      exec (.and m) s = .fault e ∧ exec (.or m) s = .fault e)

/-- 42_arithmetic_compare_logic.md R74 (the encoding of `CC` in `SW` by decision D4, log entry 4): COMP. -/
def Obligations.CompareWritesOnlyTheCarrier : Prop :=
  ∀ (m : MemRef) (s : State) (v : Word), operandWord m s = .ok v →
    exec (.comp m) s = .next { s with
      sw := if s.regA.slt v then 0xFFFFFF#24 else if s.regA = v then 0#24 else 1#24
      pc := s.pc + BitVec.ofNat 24 m.length }

/-- 42_arithmetic_compare_logic.md R77 (order and wrap by decision D14, log entry 14; `SW` encoding by D4, log entry 4): TIX
resolves its operand with the old `X`, increments `X` with wrap, and compares the new `X`. -/
def Obligations.TixIncrementsAndCompares : Prop :=
  ∀ (m : MemRef) (s : State) (v : Word), operandWord m s = .ok v →
    exec (.tix m) s = .next { s with
      regX := s.regX + 1#24
      sw := if (s.regX + 1#24).slt v then 0xFFFFFF#24 else if s.regX + 1#24 = v then 0#24 else 1#24
      pc := s.pc + BitVec.ofNat 24 m.length }

/-- 40_execution_cycle.md R53: the condition-code law, and which value is the first and which the second in COMP, TIX and
COMPR (encoding by decision D4, operand order by D10 and D14, log entries 4, 10 and 14). -/
def Obligations.ConditionCodeLaw : Prop :=
  (∀ (s : State) (a b : Int),
    ((s.setCC a b).cc = -1 ↔ a < b) ∧ ((s.setCC a b).cc = 0 ↔ a = b) ∧
    ((s.setCC a b).cc = 1 ↔ b < a)) ∧
  (∀ (m : MemRef) (s t : State) (v : Word), operandWord m s = .ok v →
    exec (.comp m) s = .next t →
    (t.cc = -1 ↔ s24 s.regA < s24 v) ∧ (t.cc = 0 ↔ s24 s.regA = s24 v) ∧
    (t.cc = 1 ↔ s24 v < s24 s.regA)) ∧
  (∀ (m : MemRef) (s t : State) (v : Word), operandWord m s = .ok v →
    exec (.tix m) s = .next t →
    (t.cc = -1 ↔ s24 t.regX < s24 v) ∧ (t.cc = 0 ↔ s24 t.regX = s24 v) ∧
    (t.cc = 1 ↔ s24 v < s24 t.regX)) ∧
  (∀ (r1 r2 : Nibble) (ra rb : GReg) (s t : State), regOfCode r1 = some ra → regOfCode r2 = some rb →
    exec (.compr r1 r2) s = .next t →
    (t.cc = -1 ↔ s24 (s.reg ra) < s24 (s.reg rb)) ∧ (t.cc = 0 ↔ s24 (s.reg ra) = s24 (s.reg rb)) ∧
    (t.cc = 1 ↔ s24 (s.reg rb) < s24 (s.reg ra)))

/-! ## Control transfer -/

/-- 43_control_transfer.md R78, R82, R83 (target `ea` for every n i by decision D7, log entry 7; RSUB's fields ignored by D13,
log entry 13): J, JSUB and RSUB. -/
def Obligations.JumpCallAndReturn : Prop :=
  ∀ (m : MemRef) (s : State),
    exec (.j m) s = .next { s with pc := effectiveAddress m s } ∧
    exec (.jsub m) s = .next { s with
      regL := s.pc + BitVec.ofNat 24 m.length, pc := effectiveAddress m s } ∧
    exec (.rsub m) s = .next { s with pc := s.regL }

/-- 43_control_transfer.md R79 to R81 (target by decision D7, log entry 7; `SW` encoding by D4, log entry 4): the condition
selects `ea` or `nextPC`. -/
def Obligations.ConditionalBranchesSelectTarget : Prop :=
  ∀ (m : MemRef) (s : State),
    exec (.jeq m) s = .next { s with
      pc := if s.sw = 0#24 then effectiveAddress m s else s.pc + BitVec.ofNat 24 m.length } ∧
    exec (.jgt m) s = .next { s with
      pc := if s.sw = 1#24 then effectiveAddress m s else s.pc + BitVec.ofNat 24 m.length } ∧
    exec (.jlt m) s = .next { s with
      pc := if s.sw = 0xFFFFFF#24 then effectiveAddress m s else s.pc + BitVec.ofNat 24 m.length }

/-- 43_control_transfer.md R78, 70_reset_and_hazards.md R116 (the convention is decision D32, log entry 32; that J goes to the
effective address for every n i is decision D7, log entry 7): a pc-relative J to itself, in format 3 with
displacement -3, leaves the whole state unchanged, so a run that reaches it has ended. -/
def Obligations.JumpToItselfEndsTheRun : Prop :=
  ∀ (s : State) (n i b : Bool), s.fetch = .ok (.j (.format3 ⟨n, i, false, b, true⟩ (-3))) →
    step s = .next s ∧ s.finished

/-! ## Register-register instructions -/

/-- 44_register_register.md R85 to R87, R90 (operand order by decision D10, log entry 10): ADDR SUBR MULR RMO on two registers,
the same one included. -/
def Obligations.RegisterArithmeticAndMove : Prop :=
  ∀ (r1 r2 : Nibble) (ra rb : GReg) (s : State), regOfCode r1 = some ra → regOfCode r2 = some rb →
    exec (.addr r1 r2) s = .next ((s.setReg rb (s.reg rb + s.reg ra)).setPc (s.pc + 2#24)) ∧
    exec (.subr r1 r2) s = .next ((s.setReg rb (s.reg rb - s.reg ra)).setPc (s.pc + 2#24)) ∧
    exec (.mulr r1 r2) s = .next ((s.setReg rb (s.reg rb * s.reg ra)).setPc (s.pc + 2#24)) ∧
    exec (.rmo r1 r2) s = .next ((s.setReg rb (s.reg ra)).setPc (s.pc + 2#24))

/-- 44_register_register.md R88 (decisions D9, D10, log entries 9 and 10): DIVR on two registers. -/
def Obligations.RegisterDivision : Prop :=
  ∀ (r1 r2 : Nibble) (ra rb : GReg) (s : State), regOfCode r1 = some ra → regOfCode r2 = some rb →
    (s.reg ra = 0#24 → exec (.divr r1 r2) s = .fault .arithmeticError) ∧
    (s.reg ra ≠ 0#24 →
      exec (.divr r1 r2) s = .next ((s.setReg rb ((s.reg rb).sdiv (s.reg ra))).setPc (s.pc + 2#24)))

/-- 44_register_register.md R89 (order by decision D10, log entry 10; `SW` encoding by D4, log entry 4): COMPR compares the first
register with the second. -/
def Obligations.RegisterCompare : Prop :=
  ∀ (r1 r2 : Nibble) (ra rb : GReg) (s : State), regOfCode r1 = some ra → regOfCode r2 = some rb →
    exec (.compr r1 r2) s = .next { s with
      sw := if (s.reg ra).slt (s.reg rb) then 0xFFFFFF#24
        else if s.reg ra = s.reg rb then 0#24 else 1#24
      pc := s.pc + 2#24 }

/-- 44_register_register.md R91 to R93 (shift count, kind and fill by decision D11, that `r2` is not checked by D12, log
entries 11 and 12): SHIFTL rotates left and
SHIFTR shifts right arithmetically by `r2 + 1`; CLEAR ignores `r2`. -/
def Obligations.ShiftsAndClear : Prop :=
  ∀ (r1 r2 : Nibble) (ra : GReg) (s : State), regOfCode r1 = some ra →
    exec (.shiftl r1 r2) s =
      .next ((s.setReg ra ((s.reg ra).rotateLeft (r2.toNat + 1))).setPc (s.pc + 2#24)) ∧
    exec (.shiftr r1 r2) s =
      .next ((s.setReg ra ((s.reg ra).sshiftRight (r2.toNat + 1))).setPc (s.pc + 2#24)) ∧
    exec (.clear r1 r2) s = .next ((s.setReg ra 0#24).setPc (s.pc + 2#24))

/-- 44_register_register.md R84 (which nibbles are checked by decision D12, log entry 12): a register code 6 to 15 turns the
instruction into an advance of `PC` by 2, DIVR with a zero divisor included. -/
def Obligations.BadRegisterCodesAreNoOps : Prop :=
  ∀ (r1 r2 : Nibble) (s : State),
    (6 ≤ r1.toNat → ∀ i ∈ [Instr.shiftl r1 r2, .shiftr r1 r2, .clear r1 r2],
      exec i s = .next { s with pc := s.pc + 2#24 }) ∧
    (6 ≤ r1.toNat ∨ 6 ≤ r2.toNat →
      ∀ i ∈ [Instr.addr r1 r2, .subr r1 r2, .mulr r1 r2, .divr r1 r2, .compr r1 r2, .rmo r1 r2],
        exec i s = .next { s with pc := s.pc + 2#24 })

/-! ## Errors -/

/-- The 27 opcode values with no handler (30_encoding.md R39). -/
def opcodesWithoutHandler : List Byte :=
  [0x58#8, 0x5C#8, 0x60#8, 0x64#8, 0x70#8, 0x80#8, 0x88#8, 0x8C#8, 0xB0#8, 0xB8#8, 0xBC#8, 0xC0#8,
    0xC4#8, 0xC8#8, 0xCC#8, 0xD0#8, 0xD4#8, 0xD8#8, 0xDC#8, 0xE0#8, 0xE4#8, 0xE8#8, 0xEC#8, 0xF0#8,
    0xF4#8, 0xF8#8, 0xFC#8]

/-- 60_exceptions.md R96: after a complete fetch, exactly the 27 opcodes without a handler raise `UnsupportedOpcode`, whatever
their fields and the state; a step raises it only so (which opcodes: decisions D2 and D21, log entries 2 and 21). -/
def Obligations.UnsupportedOpcodesFaultAfterFetch : Prop :=
  (∀ (i : Instr) (s : State), i.opcode ∈ opcodesWithoutHandler →
    exec i s = .fault (.unsupportedOpcode i.opcode)) ∧
  (∀ (s : State) (op : Byte), step s = .fault (.unsupportedOpcode op) ↔
    ∃ i, s.fetch = .ok i ∧ i.opcode = op ∧ op ∈ opcodesWithoutHandler)

/-- 60_exceptions.md R97: `ArithmeticError` is raised by DIV with a zero operand and by DIVR with two valid codes and a zero
divisor, and by nothing else (divisor and checks by decisions D10 and D12, log entries 10 and 12). -/
def Obligations.ArithmeticErrorExactlyOnZeroDivisor : Prop :=
  ∀ (i : Instr) (s : State), exec i s = .fault .arithmeticError ↔
    (∃ m, i = .div m ∧ operandWord m s = .ok 0#24) ∨
    (∃ r1 r2 ra rb, i = .divr r1 r2 ∧ regOfCode r1 = some ra ∧ regOfCode r2 = some rb ∧
      s.reg ra = 0#24)

/-- 60_exceptions.md R94, R95, R98, R99: a step fails with one of three kinds, and an `AddressError` names an address whose
access would leave memory. -/
def Obligations.StepFaultsAreOneOfThreeKinds : Prop :=
  ∀ (s : State) (e : Fault), step s = .fault e →
    (∃ a : Nat, e = .addressError a ∧ s.size ≤ a + 2) ∨
    (∃ op, e = .unsupportedOpcode op) ∨ e = .arithmeticError

/-- 60_exceptions.md R95: in execution, only the fifteen operand-reading instructions outside immediate mode and the seven
stores can raise `AddressError`; every other instruction cannot (store address by decisions D7 and D8, log
entries 7 and 8). -/
def Obligations.AddressErrorsComeOnlyFromMemoryAccesses : Prop :=
  ∀ (i : Instr) (s : State) (a : Int), exec i s = .fault (.addressError a) →
    ∃ m : MemRef,
      (i ∈ [Instr.lda m, .ldx m, .ldl m, .ldb m, .lds m, .ldt m, .ldch m, .add m, .sub m, .mul m,
          .div m, .comp m, .and m, .or m, .tix m] ∧ operandMode m.flags ≠ .immediate) ∨
      (i ∈ [Instr.sta m, .stx m, .stl m, .stb m, .sts m, .stt m, .stch m] ∧
        a = (targetAddress m s).toNat)

/-- 40_execution_cycle.md R43, 60_exceptions.md R94: a step completes or ends in an error of the spec; it is never refused. -/
def Obligations.NoStepIsRefused : Prop :=
  ∀ (s : State) (r : Refusal), step s ≠ .refused r

/-- 40_execution_cycle.md R45: after a step that raises, every register and every byte is as before; a step that completes
leaves the next state. -/
def Obligations.FailedStepLeavesMachineUnchanged : Prop :=
  ∀ s : State,
    (∀ e, step s = .fault e → s.transact .step = (.fault e, s)) ∧
    (∀ t, step s = .next t → s.transact .step = (.done, t))

/-! ## What every instruction leaves alone -/

/-- 40_execution_cycle.md R54: what a completing instruction writes to `PC`. That J, JSUB, JEQ, JGT and JLT go to the effective
address for every n i is decision D7, log entry 7; that RSUB ignores its fields is decision D13, log entry 13; that a bad
register code still advances `PC` is decision D12, log entry 12. -/
def Obligations.ProgramCounterAfterEveryInstruction : Prop :=
  ∀ (i : Instr) (s t : State), exec i s = .next t →
    t.pc = match i with
      | .j m => effectiveAddress m s
      | .jsub m => effectiveAddress m s
      | .rsub _ => s.regL
      | .jeq m => if s.cc = 0 then effectiveAddress m s else s.nextPC m.length
      | .jgt m => if s.cc = 1 then effectiveAddress m s else s.nextPC m.length
      | .jlt m => if s.cc = -1 then effectiveAddress m s else s.nextPC m.length
      | other => s.nextPC other.length

/-- 10_state.md R6, 44_register_register.md R85 to R93: a completing instruction changes no general register but the one it
writes. That ADDR SUBR MULR DIVR RMO write their second register is decision D10, log entry 10. -/
def Obligations.RegistersChangeOnlyWhereWritten : Prop :=
  ∀ (i : Instr) (s t : State) (r : GReg), exec i s = .next t → writtenReg i ≠ some r →
    t.reg r = s.reg r

/-- 10_state.md R9, R10: a completing instruction other than COMP, TIX and COMPR leaves `SW`, and so `CC`, unchanged. -/
def Obligations.OnlyComparisonsChangeConditionCode : Prop :=
  ∀ (i : Instr) (s t : State), exec i s = .next t → isComparison i = false →
    t.sw = s.sw ∧ t.cc = s.cc

/-- 20_memory.md R23, 10_state.md R12: a completing instruction changes no byte but those it stores to, at the target address
its meaning uses (decisions D7 and D8, log entries 7 and 8); one that stores nothing leaves memory
as it was; the memory size never changes. -/
def Obligations.MemoryChangesOnlyWhereStored : Prop :=
  ∀ (i : Instr) (s t : State), Memory.wf s.mem → exec i s = .next t →
    t.memWords = s.memWords ∧
    (storedBytes i s = none → t.mem = s.mem) ∧
    ∀ a n b : Nat, storedBytes i s = some (a, n) → (b < a ∨ a + n ≤ b) →
      Memory.byteAt t.mem b = Memory.byteAt s.mem b

/-- 10_state.md R9: only JEQ, JGT and JLT read the condition code: every other instruction does the same whatever `SW` holds,
up to `SW` itself, which it either leaves or sets to the same value. -/
def Obligations.OnlyConditionalBranchesReadConditionCode : Prop :=
  ∀ (i : Instr) (s : State) (w : Word), isConditionalBranch i = false →
    (∀ t, exec i s = .next t → ∃ u, exec i { s with sw := w } = .next u ∧
      u = { t with sw := u.sw } ∧ (u.sw = t.sw ∨ (u.sw = w ∧ t.sw = s.sw))) ∧
    (∀ e, exec i s = .fault e → exec i { s with sw := w } = .fault e)

/-! ## Invariants -/

/-- The invariant holds of the reset state (10_state.md R10, R15; decisions D4 and D15, log entries 4 and 15). -/
def Obligations.ResetStateMeetsInvariant : Prop := State.reset.Inv

/-- 10_state.md R10, R12, 20_memory.md R16: every completing step keeps the invariant: memory canonical and inside its bounds,
its size permitted and `SW` one of its three values (decisions D4 and D15, log entries 4 and 15). -/
def Obligations.StepKeepsInvariant : Prop :=
  ∀ s t : State, s.Inv → step s = .next t → t.Inv ∧ t.memWords = s.memWords

/-- 20_memory.md R27, 70_reset_and_hazards.md R107 to R111: whatever the host does to a constructed machine, in whatever order,
the invariant holds and the memory size is the constructed one (decisions D4 and D15, log entries 4 and 15). -/
def Obligations.EveryHostRunKeepsInvariant : Prop :=
  ∀ (words : Int) (t : State) (ops : List HostOp), construct words = .next t →
    (t.transactAll ops).Inv ∧ ((t.transactAll ops).memWords : Int) = words

/-- 20_memory.md R27, 70_reset_and_hazards.md R108 to R111: from every state that meets the invariant, every host transaction, a
step among them, gives a state that meets it, of the same memory size (decisions D4 and D15, log entries 4 and 15). -/
def Obligations.HostTransactionKeepsInvariant : Prop :=
  ∀ (s : State) (op : HostOp), s.Inv →
    (s.transact op).2.Inv ∧ (s.transact op).2.memWords = s.memWords
end

