-- ==== Sys2Proof/Laws/State.lean ====
section
/-! SUPPORT. Laws/State.lean: what each update of the state leaves and what it sets, one lemma per field per update. -/

namespace Sys2Proof.Machine

/-! ## Writing a general register -/

@[simp] theorem State.regA_setReg (s : State) (r : GReg) (v : Word) :
    (s.setReg r v).regA = if r = .a then v else s.regA := by cases r <;> rfl

@[simp] theorem State.regX_setReg (s : State) (r : GReg) (v : Word) :
    (s.setReg r v).regX = if r = .x then v else s.regX := by cases r <;> rfl

@[simp] theorem State.regL_setReg (s : State) (r : GReg) (v : Word) :
    (s.setReg r v).regL = if r = .l then v else s.regL := by cases r <;> rfl

@[simp] theorem State.regB_setReg (s : State) (r : GReg) (v : Word) :
    (s.setReg r v).regB = if r = .b then v else s.regB := by cases r <;> rfl

@[simp] theorem State.regS_setReg (s : State) (r : GReg) (v : Word) :
    (s.setReg r v).regS = if r = .s then v else s.regS := by cases r <;> rfl

@[simp] theorem State.regT_setReg (s : State) (r : GReg) (v : Word) :
    (s.setReg r v).regT = if r = .t then v else s.regT := by cases r <;> rfl

@[simp] theorem State.pc_setReg (s : State) (r : GReg) (v : Word) : (s.setReg r v).pc = s.pc := by
  cases r <;> rfl

@[simp] theorem State.sw_setReg (s : State) (r : GReg) (v : Word) : (s.setReg r v).sw = s.sw := by
  cases r <;> rfl

@[simp] theorem State.memWords_setReg (s : State) (r : GReg) (v : Word) : (s.setReg r v).memWords = s.memWords := by
  cases r <;> rfl

@[simp] theorem State.mem_setReg (s : State) (r : GReg) (v : Word) : (s.setReg r v).mem = s.mem := by
  cases r <;> rfl

@[simp] theorem State.reg_setReg_self (s : State) (r : GReg) (v : Word) : (s.setReg r v).reg r = v := by
  cases r <;> rfl

theorem State.reg_setReg_of_ne (s : State) {r q : GReg} (v : Word) (h : q ≠ r) :
    (s.setReg r v).reg q = s.reg q := by
  cases r <;> cases q <;> first | rfl | exact absurd rfl h

theorem State.reg_setReg (s : State) (r q : GReg) (v : Word) :
    (s.setReg r v).reg q = if q = r then v else s.reg q := by
  cases r <;> cases q <;> rfl

/-! ## Writing the program counter -/

@[simp] theorem State.regA_setPc (s : State) (v : Word) : (s.setPc v).regA = s.regA := rfl

@[simp] theorem State.regX_setPc (s : State) (v : Word) : (s.setPc v).regX = s.regX := rfl

@[simp] theorem State.regL_setPc (s : State) (v : Word) : (s.setPc v).regL = s.regL := rfl

@[simp] theorem State.regB_setPc (s : State) (v : Word) : (s.setPc v).regB = s.regB := rfl

@[simp] theorem State.regS_setPc (s : State) (v : Word) : (s.setPc v).regS = s.regS := rfl

@[simp] theorem State.regT_setPc (s : State) (v : Word) : (s.setPc v).regT = s.regT := rfl

@[simp] theorem State.pc_setPc (s : State) (v : Word) : (s.setPc v).pc = v := rfl

@[simp] theorem State.sw_setPc (s : State) (v : Word) : (s.setPc v).sw = s.sw := rfl

@[simp] theorem State.memWords_setPc (s : State) (v : Word) : (s.setPc v).memWords = s.memWords := rfl

@[simp] theorem State.mem_setPc (s : State) (v : Word) : (s.setPc v).mem = s.mem := rfl

@[simp] theorem State.reg_setPc (s : State) (v : Word) (r : GReg) : (s.setPc v).reg r = s.reg r := by
  cases r <;> rfl

/-! ## Writing the condition-code carrier -/

@[simp] theorem State.regA_setSw (s : State) (v : Word) : (s.setSw v).regA = s.regA := rfl

@[simp] theorem State.regX_setSw (s : State) (v : Word) : (s.setSw v).regX = s.regX := rfl

@[simp] theorem State.regL_setSw (s : State) (v : Word) : (s.setSw v).regL = s.regL := rfl

@[simp] theorem State.regB_setSw (s : State) (v : Word) : (s.setSw v).regB = s.regB := rfl

@[simp] theorem State.regS_setSw (s : State) (v : Word) : (s.setSw v).regS = s.regS := rfl

@[simp] theorem State.regT_setSw (s : State) (v : Word) : (s.setSw v).regT = s.regT := rfl

@[simp] theorem State.pc_setSw (s : State) (v : Word) : (s.setSw v).pc = s.pc := rfl

@[simp] theorem State.sw_setSw (s : State) (v : Word) : (s.setSw v).sw = v := rfl

@[simp] theorem State.memWords_setSw (s : State) (v : Word) : (s.setSw v).memWords = s.memWords := rfl

@[simp] theorem State.mem_setSw (s : State) (v : Word) : (s.setSw v).mem = s.mem := rfl

@[simp] theorem State.reg_setSw (s : State) (v : Word) (r : GReg) : (s.setSw v).reg r = s.reg r := by
  cases r <;> rfl

/-! ## Writing a byte of memory -/

@[simp] theorem State.regA_setMemByte (s : State) (a : Nat) (v : Byte) : (s.setMemByte a v).regA = s.regA := rfl

@[simp] theorem State.regX_setMemByte (s : State) (a : Nat) (v : Byte) : (s.setMemByte a v).regX = s.regX := rfl

@[simp] theorem State.regL_setMemByte (s : State) (a : Nat) (v : Byte) : (s.setMemByte a v).regL = s.regL := rfl

@[simp] theorem State.regB_setMemByte (s : State) (a : Nat) (v : Byte) : (s.setMemByte a v).regB = s.regB := rfl

@[simp] theorem State.regS_setMemByte (s : State) (a : Nat) (v : Byte) : (s.setMemByte a v).regS = s.regS := rfl

@[simp] theorem State.regT_setMemByte (s : State) (a : Nat) (v : Byte) : (s.setMemByte a v).regT = s.regT := rfl

@[simp] theorem State.pc_setMemByte (s : State) (a : Nat) (v : Byte) : (s.setMemByte a v).pc = s.pc := rfl

@[simp] theorem State.sw_setMemByte (s : State) (a : Nat) (v : Byte) : (s.setMemByte a v).sw = s.sw := rfl

@[simp] theorem State.memWords_setMemByte (s : State) (a : Nat) (v : Byte) : (s.setMemByte a v).memWords = s.memWords := rfl

@[simp] theorem State.mem_setMemByte (s : State) (a : Nat) (v : Byte) : (s.setMemByte a v).mem = Memory.setByte s.mem a v := rfl

@[simp] theorem State.reg_setMemByte (s : State) (a : Nat) (v : Byte) (r : GReg) : (s.setMemByte a v).reg r = s.reg r := by
  cases r <;> rfl

/-! ## Setting the condition code -/

@[simp] theorem State.regA_setCC (s : State) (a b : Int) : (s.setCC a b).regA = s.regA := rfl

@[simp] theorem State.regX_setCC (s : State) (a b : Int) : (s.setCC a b).regX = s.regX := rfl

@[simp] theorem State.regL_setCC (s : State) (a b : Int) : (s.setCC a b).regL = s.regL := rfl

@[simp] theorem State.regB_setCC (s : State) (a b : Int) : (s.setCC a b).regB = s.regB := rfl

@[simp] theorem State.regS_setCC (s : State) (a b : Int) : (s.setCC a b).regS = s.regS := rfl

@[simp] theorem State.regT_setCC (s : State) (a b : Int) : (s.setCC a b).regT = s.regT := rfl

@[simp] theorem State.pc_setCC (s : State) (a b : Int) : (s.setCC a b).pc = s.pc := rfl

@[simp] theorem State.sw_setCC (s : State) (a b : Int) : (s.setCC a b).sw = mask24 (ccOf a b) := rfl

@[simp] theorem State.memWords_setCC (s : State) (a b : Int) : (s.setCC a b).memWords = s.memWords := rfl

@[simp] theorem State.mem_setCC (s : State) (a b : Int) : (s.setCC a b).mem = s.mem := rfl

@[simp] theorem State.reg_setCC (s : State) (a b : Int) (r : GReg) : (s.setCC a b).reg r = s.reg r := by
  cases r <;> rfl

/-! ## The memory size under every update -/

@[simp] theorem State.size_setReg (s : State) (r : GReg) (v : Word) : (s.setReg r v).size = s.size := by
  simp [State.size]

@[simp] theorem State.size_setPc (s : State) (v : Word) : (s.setPc v).size = s.size := by
  simp [State.size]

@[simp] theorem State.size_setSw (s : State) (v : Word) : (s.setSw v).size = s.size := by
  simp [State.size]

@[simp] theorem State.size_setMemByte (s : State) (a : Nat) (v : Byte) : (s.setMemByte a v).size = s.size := by
  simp [State.size]

@[simp] theorem State.size_setCC (s : State) (a b : Int) : (s.setCC a b).size = s.size := by
  simp [State.size]

/-! ## The host's reset -/

@[simp] theorem State.regA_hostReset (s : State) (clear : Bool) : (s.hostReset clear).regA = 0#24 := rfl

@[simp] theorem State.regX_hostReset (s : State) (clear : Bool) : (s.hostReset clear).regX = 0#24 := rfl

@[simp] theorem State.regL_hostReset (s : State) (clear : Bool) : (s.hostReset clear).regL = 0#24 := rfl

@[simp] theorem State.regB_hostReset (s : State) (clear : Bool) : (s.hostReset clear).regB = 0#24 := rfl

@[simp] theorem State.regS_hostReset (s : State) (clear : Bool) : (s.hostReset clear).regS = 0#24 := rfl

@[simp] theorem State.regT_hostReset (s : State) (clear : Bool) : (s.hostReset clear).regT = 0#24 := rfl

@[simp] theorem State.pc_hostReset (s : State) (clear : Bool) : (s.hostReset clear).pc = 0#24 := rfl

@[simp] theorem State.sw_hostReset (s : State) (clear : Bool) : (s.hostReset clear).sw = 0#24 := rfl

@[simp] theorem State.memWords_hostReset (s : State) (clear : Bool) : (s.hostReset clear).memWords = s.memWords := rfl

@[simp] theorem State.mem_hostReset (s : State) (clear : Bool) : (s.hostReset clear).mem = if clear then [] else s.mem := rfl

end Sys2Proof.Machine
end

