-- ==== Sys2Proof/Laws/Memory.lean ====
section
/-! SUPPORT. Laws/Memory.lean: read after write, the canonical form kept, and what each access primitive can answer. -/

namespace Sys2Proof.Machine

/-! ## One byte -/

/-- Where every listed address is above `addr`, the byte there is 0. -/
theorem Memory.byteAt_eq_zero_of_below (m : Memory) (addr : Nat) (h : ∀ c ∈ m, addr < c.1) :
    Memory.byteAt m addr = 0#8 := by
  induction m with
  | nil => rfl
  | cons c rest ih =>
    have hc := h c (by simp)
    simp only [Memory.byteAt, Nat.ne_of_lt hc, if_false]
    exact ih fun d hd => h d (List.mem_cons_of_mem c hd)

/-- Read after write: the byte written, and every other byte as before. -/
theorem Memory.byteAt_setByte (m : Memory) (hwf : Memory.wf m) (addr b : Nat) (v : Byte) :
    Memory.byteAt (Memory.setByte m addr v) b = if b = addr then v else Memory.byteAt m b := by
  induction m with
  | nil =>
    by_cases hv : v = 0#8 <;> by_cases hb : b = addr <;> simp [Memory.setByte, Memory.byteAt, hv, hb]
  | cons c rest ih =>
    obtain ⟨a, w⟩ := c
    have hp := List.pairwise_cons.mp hwf.1
    have hrest : Memory.wf rest := ⟨hp.2, fun d hd => hwf.2 d (List.mem_cons_of_mem _ hd)⟩
    have hz : ∀ d, d ≤ a → Memory.byteAt rest d = 0#8 := fun d hd =>
      Memory.byteAt_eq_zero_of_below rest d fun e he => Nat.lt_of_le_of_lt hd (hp.1 e he)
    by_cases h1 : addr < a
    · have hza : Memory.byteAt rest addr = 0#8 := hz addr (Nat.le_of_lt h1)
      by_cases hv : v = 0#8 <;> by_cases hb : b = addr <;>
        simp [Memory.setByte, Memory.byteAt, h1, hv, hb, hza, Nat.ne_of_lt h1]
    · by_cases h2 : addr = a
      · have hza : Memory.byteAt rest a = 0#8 := hz a (Nat.le_refl a)
        by_cases hv : v = 0#8 <;> by_cases hb : b = a <;>
          simp [Memory.setByte, Memory.byteAt, h2, hv, hb, hza]
      · by_cases hb : b = a
        · have : b ≠ addr := fun h => h2 (h.symm.trans hb)
          simp [Memory.setByte, Memory.byteAt, h1, h2, hb, hb ▸ this]
        · simp [Memory.setByte, Memory.byteAt, h1, h2, hb, ih hrest]

/-- An entry after a store is the stored byte or an entry from before. -/
theorem Memory.mem_setByte {m : Memory} {addr : Nat} {v : Byte} {c : Host.Cell}
    (h : c ∈ Memory.setByte m addr v) : (c = (addr, v) ∧ v ≠ 0#8) ∨ c ∈ m := by
  induction m with
  | nil =>
    by_cases hv : v = 0#8
    · simp [Memory.setByte, hv] at h
    · exact .inl ⟨by simpa [Memory.setByte, hv] using h, hv⟩
  | cons d rest ih =>
    obtain ⟨a, w⟩ := d
    unfold Memory.setByte at h
    split at h
    · split at h
      · exact .inr h
      · next hv => exact (List.mem_cons.mp h).imp (fun q => ⟨q, hv⟩) id
    · split at h
      · split at h
        · exact .inr (List.mem_cons_of_mem _ h)
        · next hv =>
          exact (List.mem_cons.mp h).imp (fun q => ⟨q, hv⟩) (List.mem_cons_of_mem _)
      · rcases List.mem_cons.mp h with h | h
        · exact .inr (h ▸ List.mem_cons_self)
        · exact (ih h).imp id (List.mem_cons_of_mem _)

/-- A store keeps the canonical form. -/
theorem Memory.wf_setByte {m : Memory} (hwf : Memory.wf m) (addr : Nat) (v : Byte) :
    Memory.wf (Memory.setByte m addr v) := by
  refine ⟨?_, fun c hc => ?_⟩
  · induction m with
    | nil => by_cases hv : v = 0#8 <;> simp [Memory.setByte, hv]
    | cons d rest ih =>
      obtain ⟨a, w⟩ := d
      have hp := List.pairwise_cons.mp hwf.1
      have hrest : Memory.wf rest := ⟨hp.2, fun e he => hwf.2 e (List.mem_cons_of_mem _ he)⟩
      by_cases h1 : addr < a
      · by_cases hv : v = 0#8
        · simpa [Memory.setByte, h1, hv] using hwf.1
        · simp only [Memory.setByte, h1, hv, if_true, if_false]
          exact List.pairwise_cons.mpr ⟨fun e he => by
            rcases List.mem_cons.mp he with rfl | he
            · exact h1
            · exact Nat.lt_trans h1 (hp.1 e he), hwf.1⟩
      · by_cases h2 : addr = a
        · by_cases hv : v = 0#8
          · simpa [Memory.setByte, h2, hv] using hp.2
          · simp only [Memory.setByte, h2, hv, Nat.lt_irrefl, if_true, if_false]
            exact List.pairwise_cons.mpr ⟨fun e he => hp.1 e he, hp.2⟩
        · simp only [Memory.setByte, h1, h2, if_false]
          refine List.pairwise_cons.mpr ⟨fun e he => ?_, ih hrest⟩
          rcases Memory.mem_setByte he with ⟨rfl, -⟩ | he
          · exact Nat.lt_of_le_of_ne (Nat.not_lt.mp h1) fun h => h2 h.symm
          · exact hp.1 e he
  · rcases Memory.mem_setByte hc with ⟨rfl, hv⟩ | hc
    · exact hv
    · exact hwf.2 c hc

/-! ## The access primitives -/

theorem State.size_eq (s : State) : s.size = 3 * s.memWords := rfl

theorem State.inBounds_iff (s : State) (a len : Nat) : s.inBounds a len = true ↔ a + len ≤ s.size := by
  simp [State.inBounds]

/-- All a byte read can answer (20_memory.md R17). -/
theorem State.readByte_cases (s : State) (a : Nat) :
    (a < s.size ∧ s.readByte a = .ok (Memory.byteAt s.mem a)) ∨
    (s.size ≤ a ∧ s.readByte a = .error (.addressError a)) := by
  by_cases h : a + 1 ≤ s.size
  · exact .inl ⟨by omega, by simp [State.readByte, State.inBounds, h]⟩
  · exact .inr ⟨by omega, by simp [State.readByte, State.inBounds, h]⟩

/-- All a word read can answer (20_memory.md R19). -/
theorem State.readWord_cases (s : State) (a : Nat) :
    (a + 2 < s.size ∧ s.readWord a = .ok (joinBytes (Memory.byteAt s.mem a)
      (Memory.byteAt s.mem (a + 1)) (Memory.byteAt s.mem (a + 2)))) ∨
    (s.size ≤ a + 2 ∧ s.readWord a = .error (.addressError a)) := by
  by_cases h : a + 3 ≤ s.size
  · exact .inl ⟨by omega, by simp [State.readWord, State.inBounds, h]⟩
  · exact .inr ⟨by omega, by simp [State.readWord, State.inBounds, h]⟩

/-- All a byte write can answer (20_memory.md R18). -/
theorem State.writeByte_cases (s : State) (a : Nat) (v : Byte) :
    (a < s.size ∧ s.writeByte a v = .ok (s.setMemByte a v)) ∨
    (s.size ≤ a ∧ s.writeByte a v = .error (.addressError a)) := by
  by_cases h : a + 1 ≤ s.size
  · exact .inl ⟨by omega, by simp [State.writeByte, State.inBounds, h]⟩
  · exact .inr ⟨by omega, by simp [State.writeByte, State.inBounds, h]⟩

/-- All a word write can answer (20_memory.md R20). -/
theorem State.writeWord_cases (s : State) (a : Nat) (v : Word) :
    (a + 2 < s.size ∧ s.writeWord a v = .ok (((s.setMemByte a (wordByte v 0)).setMemByte (a + 1)
      (wordByte v 1)).setMemByte (a + 2) (wordByte v 2))) ∨
    (s.size ≤ a + 2 ∧ s.writeWord a v = .error (.addressError a)) := by
  by_cases h : a + 3 ≤ s.size
  · exact .inl ⟨by omega, by simp [State.writeWord, State.inBounds, h]⟩
  · exact .inr ⟨by omega, by simp [State.writeWord, State.inBounds, h]⟩

/-- Every memory operation keeps the canonical form. -/
theorem State.mem_wf_setMemByte {s : State} (h : Memory.wf s.mem) (a : Nat) (v : Byte) :
    Memory.wf (s.setMemByte a v).mem := Memory.wf_setByte h a v

theorem State.mem_wf_writeByte {s t : State} {a : Nat} {v : Byte} (h : Memory.wf s.mem)
    (hw : s.writeByte a v = .ok t) : Memory.wf t.mem := by
  rcases s.writeByte_cases a v with ⟨-, he⟩ | ⟨-, he⟩ <;> rw [he] at hw <;> cases hw
  exact Memory.wf_setByte h a v

theorem State.mem_wf_writeWord {s t : State} {a : Nat} {v : Word} (h : Memory.wf s.mem)
    (hw : s.writeWord a v = .ok t) : Memory.wf t.mem := by
  rcases s.writeWord_cases a v with ⟨-, he⟩ | ⟨-, he⟩ <;> rw [he] at hw <;> cases hw
  exact Memory.wf_setByte (Memory.wf_setByte (Memory.wf_setByte h _ _) _ _) _ _

theorem State.mem_wf_placeBytes {s : State} (h : Memory.wf s.mem) (a : Nat) (bytes : List Byte) :
    Memory.wf (s.placeBytes a bytes).mem := by
  induction bytes generalizing s a with
  | nil => exact h
  | cons v rest ih =>
    refine ih ?_ (a + 1)
    split
    · exact Memory.wf_setByte h a v
    · exact h

theorem State.mem_wf_reset : Memory.wf State.reset.mem := by decide

theorem State.mem_wf_hostReset {s : State} (h : Memory.wf s.mem) (clear : Bool) :
    Memory.wf (s.hostReset clear).mem := by
  cases clear
  · exact h
  · exact State.mem_wf_reset

/-- A written word, byte by byte (20_memory.md R20). -/
theorem State.byteAt_writeWord {s t : State} {a : Nat} {v : Word} (h : Memory.wf s.mem)
    (hw : s.writeWord a v = .ok t) (b : Nat) :
    Memory.byteAt t.mem b =
      if b = a + 2 then wordByte v 2 else if b = a + 1 then wordByte v 1
      else if b = a then wordByte v 0 else Memory.byteAt s.mem b := by
  rcases s.writeWord_cases a v with ⟨-, he⟩ | ⟨-, he⟩ <;> rw [he] at hw <;> cases hw
  have h1 := Memory.wf_setByte h a (wordByte v 0)
  have h2 := Memory.wf_setByte h1 (a + 1) (wordByte v 1)
  simp only [State.mem_setMemByte, Memory.byteAt_setByte _ h2, Memory.byteAt_setByte _ h1,
    Memory.byteAt_setByte _ h]

/-- The three bytes of a word joined again are the word (20_memory.md R19, R20). -/
theorem joinBytes_wordByte (v : Word) :
    joinBytes (wordByte v 0) (wordByte v 1) (wordByte v 2) = v := by
  apply BitVec.eq_of_getLsbD_eq
  intro i hi
  simp only [joinBytes, wordByte, BitVec.getLsbD_append, BitVec.getLsbD_extractLsb']
  by_cases h1 : i < 8
  · simp [h1]
  · by_cases h2 : i - 8 < 8
    · simp [h1, h2]; congr 1; omega
    · have : i - 8 - 8 < 8 := by omega
      simp [h1, h2, this]; congr 1; omega

end Sys2Proof.Machine
end

