-- ==== Sys2Proof/Laws/Ops.lean ====
section
/-! SUPPORT. Laws/Ops.lean: for each shared operation, once, everything it can answer. -/

namespace Sys2Proof.Machine

/-! ## Going on or abandoning the step -/

@[simp] theorem orRaise_ok {α : Type} (v : α) (k : α → StepResult) : orRaise (.ok v) k = k v := rfl

@[simp] theorem orRaise_error {α : Type} (e : Fault) (k : α → StepResult) :
    orRaise (.error e) k = .fault e := rfl

theorem orRaise_eq_next {α : Type} {r : Except Fault α} {k : α → StepResult} {t : State} :
    orRaise r k = .next t ↔ ∃ v, r = .ok v ∧ k v = .next t := by
  cases r <;> simp

theorem orRaise_eq_fault {α : Type} {r : Except Fault α} {k : α → StepResult} {e : Fault} :
    orRaise r k = .fault e ↔ r = .error e ∨ ∃ v, r = .ok v ∧ k v = .fault e := by
  cases r <;> simp

theorem orRaise_eq_refused {α : Type} {r : Except Fault α} {k : α → StepResult} {q : Refusal} :
    orRaise r k = .refused q ↔ ∃ v, r = .ok v ∧ k v = .refused q := by
  cases r <;> simp

@[simp] theorem raise_eq (e : Fault) : raise e = .fault e := rfl

/-! ## Widths and register codes -/

theorem mask24_s24 (w : Word) : mask24 (s24 w) = w := BitVec.ofInt_toInt

theorem s24_eq_zero_iff (w : Word) : s24 w = 0 ↔ w = 0#24 := by
  constructor
  · intro h
    rw [← mask24_s24 w, h]; rfl
  · rintro rfl; rfl

theorem regOfCode_eq_some_iff (c : Nibble) (r : GReg) :
    regOfCode c = some r ↔ RegId.code (.general r) = (c.toNat : Int) := by
  revert c; cases r <;> decide

theorem regOfCode_eq_none_iff (c : Nibble) : regOfCode c = none ↔ 6 ≤ c.toNat := by
  revert c; decide

/-! ## Operands -/

/-- All that resolving a word operand can answer (40_execution_cycle.md R49). -/
theorem operandWord_cases (m : MemRef) (s : State) :
    (operandMode m.flags = .immediate ∧ operandWord m s = .ok (effectiveAddress m s)) ∨
    ((operandMode m.flags = .simple ∨ operandMode m.flags = .degenerate) ∧
      operandWord m s = s.readWord (effectiveAddress m s).toNat) ∨
    (operandMode m.flags = .indirect ∧
      ((∃ p, s.readWord (effectiveAddress m s).toNat = .ok p ∧
          operandWord m s = s.readWord p.toNat) ∨
       (∃ e, s.readWord (effectiveAddress m s).toNat = .error e ∧ operandWord m s = .error e))) := by
  unfold operandWord
  cases h : operandMode m.flags
  · simp
  · simp
  · cases hr : s.readWord (effectiveAddress m s).toNat <;> simp [hr]
  · simp

/-- All that resolving a byte operand can answer (40_execution_cycle.md R51). -/
theorem operandByte_cases (m : MemRef) (s : State) :
    (operandMode m.flags = .immediate ∧
      operandByte m s = .ok ((effectiveAddress m s).extractLsb' 0 8)) ∨
    ((operandMode m.flags = .simple ∨ operandMode m.flags = .degenerate) ∧
      operandByte m s = s.readByte (effectiveAddress m s).toNat) ∨
    (operandMode m.flags = .indirect ∧
      ((∃ p, s.readWord (effectiveAddress m s).toNat = .ok p ∧
          operandByte m s = s.readByte p.toNat) ∨
       (∃ e, s.readWord (effectiveAddress m s).toNat = .error e ∧ operandByte m s = .error e))) := by
  unfold operandByte
  cases h : operandMode m.flags
  · simp
  · simp
  · cases hr : s.readWord (effectiveAddress m s).toNat <;> simp [hr]
  · simp

theorem State.readWord_eq_error {s : State} {a : Nat} {e : Fault} (h : s.readWord a = .error e) :
    e = .addressError a ∧ s.size ≤ a + 2 := by
  rcases s.readWord_cases a with ⟨-, hr⟩ | ⟨hs, hr⟩ <;> rw [hr] at h <;> cases h
  exact ⟨rfl, hs⟩

theorem State.readByte_eq_error {s : State} {a : Nat} {e : Fault} (h : s.readByte a = .error e) :
    e = .addressError a ∧ s.size ≤ a := by
  rcases s.readByte_cases a with ⟨-, hr⟩ | ⟨hs, hr⟩ <;> rw [hr] at h <;> cases h
  exact ⟨rfl, hs⟩

/-- Resolving an operand fails with an `AddressError` or not at all. -/
theorem operandWord_eq_error {m : MemRef} {s : State} {e : Fault} (h : operandWord m s = .error e) :
    ∃ a : Nat, e = .addressError a := by
  rcases operandWord_cases m s with ⟨-, ho⟩ | ⟨-, ho⟩ | ⟨-, ⟨p, -, ho⟩ | ⟨e', hr, ho⟩⟩ <;> rw [ho] at h
  · cases h
  · exact ⟨_, (State.readWord_eq_error h).1⟩
  · exact ⟨_, (State.readWord_eq_error h).1⟩
  · cases h; exact ⟨_, (State.readWord_eq_error hr).1⟩

theorem operandByte_eq_error {m : MemRef} {s : State} {e : Fault} (h : operandByte m s = .error e) :
    ∃ a : Nat, e = .addressError a := by
  rcases operandByte_cases m s with ⟨-, ho⟩ | ⟨-, ho⟩ | ⟨-, ⟨p, -, ho⟩ | ⟨e', hr, ho⟩⟩ <;> rw [ho] at h
  · cases h
  · exact ⟨_, (State.readByte_eq_error h).1⟩
  · exact ⟨_, (State.readByte_eq_error h).1⟩
  · cases h; exact ⟨_, (State.readWord_eq_error hr).1⟩

/-! ## Shared meanings -/

/-- All a word load can do. -/
theorem loadRegister_cases (r : GReg) (m : MemRef) (s : State) :
    (∃ v, operandWord m s = .ok v ∧
      loadRegister r m s = .next ((s.setReg r v).setPc (s.nextPC m.length))) ∨
    (∃ e, operandWord m s = .error e ∧ loadRegister r m s = .fault e) := by
  unfold loadRegister
  cases h : operandWord m s <;> simp

/-- All a word store can do. -/
theorem storeRegister_cases (r : GReg) (m : MemRef) (s : State) :
    (∃ t, s.writeWord (targetAddress m s).toNat (s.reg r) = .ok t ∧
      storeRegister r m s = .next (t.setPc (s.nextPC m.length))) ∨
    (s.size ≤ (targetAddress m s).toNat + 2 ∧
      storeRegister r m s = .fault (.addressError (targetAddress m s).toNat)) := by
  unfold storeRegister
  rcases s.writeWord_cases (targetAddress m s).toNat (s.reg r) with ⟨-, h⟩ | ⟨hs, h⟩ <;> rw [h]
  · exact .inl ⟨_, rfl, rfl⟩
  · exact .inr ⟨hs, rfl⟩

/-- All an accumulator operation can do. -/
theorem accumulate_cases (f : Word → Word → Word) (m : MemRef) (s : State) :
    (∃ v, operandWord m s = .ok v ∧
      accumulate f m s = .next ((s.setReg .a (f s.regA v)).setPc (s.nextPC m.length))) ∨
    (∃ e, operandWord m s = .error e ∧ accumulate f m s = .fault e) := by
  unfold accumulate
  cases h : operandWord m s <;> simp

/-- All that resolving one register code can do (44_register_register.md R84). -/
theorem withReg_cases (r1 : Nibble) (s : State) (k : GReg → StepResult) :
    (∃ ra, regOfCode r1 = some ra ∧ withReg r1 s k = k ra) ∨
    (regOfCode r1 = none ∧ withReg r1 s k = .next (s.setPc (s.nextPC 2))) := by
  unfold withReg
  cases h : regOfCode r1
  · exact .inr ⟨rfl, rfl⟩
  · exact .inl ⟨_, rfl, rfl⟩

/-- All that resolving two register codes can do (44_register_register.md R84). -/
theorem withRegs_cases (r1 r2 : Nibble) (s : State) (k : GReg → GReg → StepResult) :
    (∃ ra rb, regOfCode r1 = some ra ∧ regOfCode r2 = some rb ∧ withRegs r1 r2 s k = k ra rb) ∨
    ((regOfCode r1 = none ∨ regOfCode r2 = none) ∧
      withRegs r1 r2 s k = .next (s.setPc (s.nextPC 2))) := by
  unfold withRegs
  cases h1 : regOfCode r1 <;> cases h2 : regOfCode r2
  · exact .inr ⟨.inl rfl, rfl⟩
  · exact .inr ⟨.inl rfl, rfl⟩
  · exact .inr ⟨.inr rfl, rfl⟩
  · exact .inl ⟨_, _, rfl, rfl, rfl⟩

/-- All a two-register operation can do. -/
theorem combineRegs_cases (f : Word → Word → Word) (r1 r2 : Nibble) (s : State) :
    (∃ ra rb, regOfCode r1 = some ra ∧ regOfCode r2 = some rb ∧ combineRegs f r1 r2 s =
      .next ((s.setReg rb (f (s.reg rb) (s.reg ra))).setPc (s.nextPC 2))) ∨
    ((regOfCode r1 = none ∨ regOfCode r2 = none) ∧
      combineRegs f r1 r2 s = .next (s.setPc (s.nextPC 2))) :=
  withRegs_cases r1 r2 s _

/-- All a one-register operation can do. -/
theorem modifyReg_cases (f : Word → Word) (r1 : Nibble) (s : State) :
    (∃ ra, regOfCode r1 = some ra ∧
      modifyReg f r1 s = .next ((s.setReg ra (f (s.reg ra))).setPc (s.nextPC 2))) ∨
    (regOfCode r1 = none ∧ modifyReg f r1 s = .next (s.setPc (s.nextPC 2))) :=
  withReg_cases r1 s _

@[simp] theorem unsupported_eq (op : Byte) : unsupported op = .fault (.unsupportedOpcode op) := rfl

/-! ## Fetch and step -/

/-- How many bytes from an address on can be read. -/
theorem State.length_bytesFrom (s : State) (addr n : Nat) :
    (s.bytesFrom addr n).length = min n (s.size - addr) := by
  induction n generalizing addr with
  | zero => simp [State.bytesFrom]
  | succ n ih =>
    by_cases h : addr + 1 ≤ s.size
    · simp only [State.bytesFrom, State.inBounds, h, decide_true, if_true, List.length_cons, ih]
      omega
    · simp only [State.bytesFrom, State.inBounds, h, decide_false, Bool.false_eq_true, if_false,
        List.length_nil]
      omega

/-- Bytes that stand in memory from an address on are the first bytes read from there. -/
theorem State.bytesFrom_eq_append (s : State) (bytes : List Byte) (addr n : Nat)
    (hn : bytes.length ≤ n) (hs : addr + bytes.length ≤ s.size)
    (hb : ∀ (k : Nat) (v : Byte), bytes[k]? = some v → Memory.byteAt s.mem (addr + k) = v) :
    ∃ rest, s.bytesFrom addr n = bytes ++ rest := by
  induction bytes generalizing addr n with
  | nil => exact ⟨_, rfl⟩
  | cons v tail ih =>
    obtain _ | n := n
    · simp at hn
    · simp only [List.length_cons] at hn hs
      obtain ⟨rest, hr⟩ := ih (addr + 1) n (by omega) (by omega) fun k w hk => by
        have := hb (k + 1) w (by simpa using hk)
        rwa [Nat.add_assoc, Nat.add_comm 1 k]
      have h1 : addr + 1 ≤ s.size := by omega
      have h0 := hb 0 v rfl
      exact ⟨rest, by simp_all [State.bytesFrom, State.inBounds]⟩

/-- All a fetch can answer, from what the decoder makes of the bytes it can read (30_encoding.md R38). -/
theorem State.fetch_cases (s : State) :
    (∃ i rest, decode s.fetchWindow = .ok (i, rest) ∧ s.fetch = .ok i) ∨
    (∃ k, decode s.fetchWindow = .error (.missingByte k) ∧
      s.fetch = .error (.addressError ((s.pc.toNat + k : Nat) : Int))) ∨
    (∃ op, decode s.fetchWindow = .error (.noRow op) ∧ s.fetch = .error (.unsupportedOpcode op)) := by
  unfold State.fetch
  rcases h : decode s.fetchWindow with e | ⟨i, rest⟩
  · cases e
    · exact .inr (.inl ⟨_, rfl, rfl⟩)
    · exact .inr (.inr ⟨_, rfl, rfl⟩)
  · exact .inl ⟨_, _, rfl, rfl⟩

/-- All a step can do: fail to fetch, or run the fetched instruction. -/
theorem step_cases (s : State) :
    (∃ i, s.fetch = .ok i ∧ step s = exec i s) ∨ (∃ e, s.fetch = .error e ∧ step s = .fault e) := by
  unfold step
  cases h : s.fetch
  · exact .inr ⟨_, rfl, rfl⟩
  · exact .inl ⟨_, rfl, rfl⟩

end Sys2Proof.Machine
end

