-- ==== Sys2Proof/Laws/Alu.lean ====
section
/-! SUPPORT. Laws/Alu.lean: the width operations, the arithmetic, the condition code and the address field of a format-3 or
format-4 instruction, each as one 24-bit expression. -/

namespace Sys2Proof.Machine

/-! ## Reduction to 24 bits -/

theorem mask24_add (a b : Int) : mask24 (a + b) = mask24 a + mask24 b := by
  unfold mask24; exact BitVec.ofInt_add ..

theorem mask24_sub (a b : Int) : mask24 (a - b) = mask24 a - mask24 b := by
  rw [Int.sub_eq_add_neg, mask24_add, BitVec.sub_eq_add_neg]; unfold mask24; rw [BitVec.ofInt_neg]

theorem mask24_mul (a b : Int) : mask24 (a * b) = mask24 a * mask24 b := by
  unfold mask24; exact BitVec.ofInt_mul ..

theorem mask24_u24 (w : Word) : mask24 (u24 w) = w := by
  unfold mask24 u24; simp

theorem mask24_natCast (n : Nat) : mask24 (n : Int) = BitVec.ofNat 24 n := by
  unfold mask24; exact BitVec.ofInt_natCast ..

/-! ## Arithmetic -/

theorem nextPC_eq_add (s : State) (n : Nat) : s.nextPC n = s.pc + BitVec.ofNat 24 n := by
  unfold State.nextPC; rw [mask24_add, mask24_u24, mask24_natCast]

theorem addWords_eq_add (a b : Word) : addWords a b = a + b := by
  unfold addWords; rw [mask24_add, mask24_s24, mask24_s24]

theorem subWords_eq_sub (a b : Word) : subWords a b = a - b := by
  unfold subWords; rw [mask24_sub, mask24_s24, mask24_s24]

theorem mulWords_eq_mul (a b : Word) : mulWords a b = a * b := by
  unfold mulWords; rw [mask24_mul, mask24_s24, mask24_s24]

theorem divWords_eq_sdiv (a b : Word) : divWords a b = a.sdiv b := by
  unfold divWords mask24 s24
  apply BitVec.eq_of_toInt_eq
  rw [BitVec.toInt_ofInt, BitVec.toInt_sdiv]

theorem incrementWord_eq_add (w : Word) : incrementWord w = w + 1#24 := by
  unfold incrementWord; rw [mask24_add, mask24_u24]; rfl

/-! ## The condition code -/

theorem ccOf_mem (a b : Int) : ccOf a b = -1 ∨ ccOf a b = 0 ∨ ccOf a b = 1 := by
  unfold ccOf; split
  · exact .inl rfl
  · split
    · exact .inr (.inl rfl)
    · exact .inr (.inr rfl)

/-- Reading the condition code back from the carrier gives the code that was written. -/
theorem cc_setCC (s : State) (a b : Int) : (s.setCC a b).cc = ccOf a b := by
  simp only [State.cc, State.sw_setCC]
  rcases ccOf_mem a b with h | h | h <;> rw [h] <;> decide

/-! ## The address field -/

theorem mask24_zext20 (d : Int) : mask24 (zext20 d) = (BitVec.ofInt 20 d).setWidth 24 := by
  unfold mask24 zext20
  apply BitVec.eq_of_toNat_eq
  simp only [BitVec.toNat_ofInt, BitVec.toNat_setWidth]
  omega

theorem mask24_addr20 (a : BitVec 20) : mask24 ((a.toNat : Nat) : Int) = a.setWidth 24 := by
  rw [mask24_natCast]
  apply BitVec.eq_of_toNat_eq
  simp

/-! ## What was written reads back -/

theorem State.readWord_of_writeWord {s t : State} {a : Nat} {v : Word} (hwf : Memory.wf s.mem)
    (h : s.writeWord a v = .ok t) : t.readWord a = .ok v := by
  have hb := State.byteAt_writeWord hwf h
  rcases s.writeWord_cases a v with ⟨h', he⟩ | ⟨h', he⟩
  · have hs : t.size = s.size := by rw [he] at h; cases h; simp
    rcases t.readWord_cases a with ⟨h2, he2⟩ | ⟨h2, he2⟩
    · rw [he2, hb, hb, hb]; simp [joinBytes_wordByte]
    · omega
  · rw [he] at h; cases h

end Sys2Proof.Machine
end

