-- ==== Sys2Proof/Laws/Encoding.lean ====
section
/-! SUPPORT. Laws/Encoding.lean: each field of an encoding, put in place and taken out again. -/

namespace Sys2Proof

/-! ## Byte 1 and byte 2 -/

theorem opcodeOf_opcodeOf (b : Byte) : opcodeOf (opcodeOf b) = opcodeOf b := by revert b; decide

theorem opcodeOf_byte1_bits : ∀ (op : Byte) (n i : Bool), opcodeOf op = op →
    opcodeOf (op.extractLsb' 2 6 ++ BitVec.ofBool n ++ BitVec.ofBool i : Byte) = op := by decide

theorem opcodeOf_encodeByte1 (op : Byte) (fl : AddrFlags) (h : opcodeOf op = op) :
    opcodeOf (encodeByte1 op fl) = op :=
  opcodeOf_byte1_bits op fl.n fl.i h

theorem decodeFlags_encode (op : Byte) (fl : AddrFlags) (e : Bool) (high : BitVec 4) :
    decodeFlags (encodeByte1 op fl) (encodeByte2 fl e high) = fl := by
  obtain ⟨n, i, x, b, p⟩ := fl
  unfold decodeFlags encodeByte1 encodeByte2
  simp only [BitVec.getLsbD_append]
  simp

theorem decodeE_encodeByte2 (fl : AddrFlags) (e : Bool) (high : BitVec 4) :
    decodeE (encodeByte2 fl e high) = e := by
  unfold decodeE encodeByte2
  simp only [BitVec.getLsbD_append]
  simp

theorem encodeByte2_low (fl : AddrFlags) (e : Bool) (high : BitVec 4) :
    (encodeByte2 fl e high).extractLsb' 0 4 = high := by
  unfold encodeByte2
  apply BitVec.eq_of_getLsbD_eq
  intro k hk
  simp only [BitVec.getLsbD_append, BitVec.getLsbD_extractLsb']
  simp [hk]

theorem byte1_of_bits : ∀ b : Byte, ((opcodeOf b).extractLsb' 2 6 ++ BitVec.ofBool (b.getLsbD 1) ++
    BitVec.ofBool (b.getLsbD 0) : Byte) = b := by decide

theorem encodeByte1_decodeFlags (b1 b2 : Byte) : encodeByte1 (opcodeOf b1) (decodeFlags b1 b2) = b1 :=
  byte1_of_bits b1

theorem byte2_of_bits : ∀ b : Byte, (BitVec.ofBool (b.getLsbD 7) ++ BitVec.ofBool (b.getLsbD 6) ++
    BitVec.ofBool (b.getLsbD 5) ++ BitVec.ofBool (b.getLsbD 4) ++ b.extractLsb' 0 4 : Byte) = b := by
  decide

theorem encodeByte2_decodeFlags (b1 b2 : Byte) :
    encodeByte2 (decodeFlags b1 b2) (decodeE b2) (b2.extractLsb' 0 4) = b2 :=
  byte2_of_bits b2

/-! ## Nibbles and fields -/

theorem nibbles_of_append (r1 r2 : Nibble) :
    (r1 ++ r2 : Byte).extractLsb' 4 4 = r1 ∧ (r1 ++ r2 : Byte).extractLsb' 0 4 = r2 := by
  revert r1 r2; decide

theorem append_of_nibbles (b : Byte) : (b.extractLsb' 4 4 ++ b.extractLsb' 0 4 : Byte) = b := by
  revert b; decide

theorem append_of_field12 (f : BitVec 12) :
    (f.extractLsb' 8 4 ++ f.extractLsb' 0 8 : BitVec 12) = f := by
  apply BitVec.eq_of_getLsbD_eq
  intro i hi
  simp only [BitVec.getLsbD_append, BitVec.getLsbD_extractLsb']
  by_cases h1 : i < 8
  · simp [h1]
  · have : i - 8 < 4 := by omega
    simp [h1, this]; congr 1; omega

theorem append_of_field20 (f : BitVec 20) :
    (f.extractLsb' 16 4 ++ f.extractLsb' 8 8 ++ f.extractLsb' 0 8 : BitVec 20) = f := by
  apply BitVec.eq_of_getLsbD_eq
  intro i hi
  simp only [BitVec.getLsbD_append, BitVec.getLsbD_extractLsb']
  by_cases h1 : i < 8
  · simp [h1]
  · by_cases h2 : i - 8 < 8
    · simp [h1, h2]; congr 1; omega
    · have : i - 8 - 8 < 4 := by omega
      simp [h1, h2, this]; congr 1; omega

theorem field12_of_append (a : BitVec 4) (b : Byte) :
    (a ++ b : BitVec 12).extractLsb' 8 4 = a ∧ (a ++ b : BitVec 12).extractLsb' 0 8 = b := by
  constructor <;>
    (apply BitVec.eq_of_getLsbD_eq
     intro k hk
     simp only [BitVec.getLsbD_append, BitVec.getLsbD_extractLsb']
     simp [hk])

theorem field20_of_append (a : BitVec 4) (b c : Byte) :
    (a ++ b ++ c : BitVec 20).extractLsb' 16 4 = a ∧ (a ++ b ++ c : BitVec 20).extractLsb' 8 8 = b ∧
      (a ++ b ++ c : BitVec 20).extractLsb' 0 8 = c := by
  refine ⟨?_, ?_, ?_⟩ <;>
    (apply BitVec.eq_of_getLsbD_eq
     intro k hk
     simp only [BitVec.getLsbD_append, BitVec.getLsbD_extractLsb'])
  · have h1 : ¬ (16 + k - 8 < 8) := by omega
    have h2 : 16 + k - 8 - 8 = k := by omega
    have h0 : ¬ (16 + k < 8) := by omega
    simp [h1, h2, hk, h0]
  · simp [hk]
  · simp [hk]

theorem sext12_ofInt (d : Int) (h1 : -2048 ≤ d) (h2 : d ≤ 2047) : sext12 (BitVec.ofInt 12 d) = d := by
  unfold sext12
  rw [BitVec.toInt_ofInt]
  apply Int.bmod_eq_of_le <;> omega

theorem sext12_range (f : BitVec 12) :
    -2048 ≤ sext12 f ∧ sext12 f ≤ 2047 ∧ BitVec.ofInt 12 (sext12 f) = f := by
  unfold sext12
  refine ⟨?_, ?_, BitVec.ofInt_toInt⟩
  · have := BitVec.le_toInt f; simpa using this
  · have := @BitVec.toInt_lt 12 f; simp at this; omega

/-! ## Rows of the opcode map -/

/-- A well-formed instruction's address field is well-formed. -/
theorem wellFormed_of_shape {i : Instr} {m : MemRef} (h : WellFormed i = true)
    (hs : i.shape = .memory m) : m.wellFormed = true := by
  cases i <;> simp_all [WellFormed, Instr.shape]

/-- What the instructions a row makes look like. -/
theorem opcodeRow_makes {op : Byte} {row : OpcodeRow} (h : opcodeRow op = some row) :
    match row with
    | .format1 i => i.shape = .format1 ∧ i.opcode = op ∧ WellFormed i = true
    | .format2 mk => ∀ r1 r2, (mk r1 r2).shape = .format2 r1 r2 ∧ (mk r1 r2).opcode = op ∧
        WellFormed (mk r1 r2) = true
    | .memory mk => ∀ m, (mk m).shape = .memory m ∧ (mk m).opcode = op ∧
        WellFormed (mk m) = m.wellFormed := by
  unfold opcodeRow at h
  split at h <;> cases h <;>
    first | exact ⟨rfl, rfl, rfl⟩ | exact fun _ => ⟨rfl, rfl, rfl⟩ | exact fun _ _ => ⟨rfl, rfl, rfl⟩

/-! ## What decoding can do -/

/-- All that a successful decoding can have read: the row's format and its bytes, with what follows them left over. -/
theorem decode_eq_ok {bytes rest : List Byte} {i : Instr} (h : decode bytes = .ok (i, rest)) :
    (∃ b1, bytes = b1 :: rest ∧ opcodeRow (opcodeOf b1) = some (.format1 i)) ∨
    (∃ b1 b2 mk, bytes = b1 :: b2 :: rest ∧ opcodeRow (opcodeOf b1) = some (.format2 mk) ∧
      i = mk (b2.extractLsb' 4 4) (b2.extractLsb' 0 4)) ∨
    (∃ b1 b2 b3 mk, bytes = b1 :: b2 :: b3 :: rest ∧ opcodeRow (opcodeOf b1) = some (.memory mk) ∧
      decodeE b2 = false ∧ i = mk (.format3 (decodeFlags b1 b2) (sext12 (field12 b2 b3)))) ∨
    (∃ b1 b2 b3 b4 mk, bytes = b1 :: b2 :: b3 :: b4 :: rest ∧
      opcodeRow (opcodeOf b1) = some (.memory mk) ∧ decodeE b2 = true ∧
      i = mk (.format4 (decodeFlags b1 b2) (field20 b2 b3 b4))) := by
  match bytes, h with
  | [], h => simp [decode] at h
  | b1 :: tail, h =>
    unfold decode at h
    rcases hr : opcodeRow (opcodeOf b1) with _ | (j | mk | mk) <;> simp only [hr] at h
    · cases h
    · cases h; exact .inl ⟨b1, rfl, hr⟩
    · match tail, h with
      | [], h => cases h
      | b2 :: tail, h => cases h; exact .inr (.inl ⟨b1, b2, mk, rfl, hr, rfl⟩)
    · match tail, h with
      | [], h => cases h
      | [_], h => cases h
      | b2 :: b3 :: tail, h =>
        cases hE : decodeE b2 <;> simp only [hE, Bool.false_eq_true, if_false, if_true] at h
        · cases h; exact .inr (.inr (.inl ⟨b1, b2, b3, mk, rfl, hr, hE, rfl⟩))
        · match tail, h with
          | [], h => cases h
          | b4 :: tail, h => cases h; exact .inr (.inr (.inr ⟨b1, b2, b3, b4, mk, rfl, hr, hE, rfl⟩))

/-- Bytes that stand after those an instruction is decoded from do not change it. -/
theorem decode_append {bytes rest : List Byte} {i : Instr} (h : decode bytes = .ok (i, rest))
    (more : List Byte) : decode (bytes ++ more) = .ok (i, rest ++ more) := by
  rcases decode_eq_ok h with ⟨b1, rfl, hr⟩ | ⟨b1, b2, mk, rfl, hr, rfl⟩ |
    ⟨b1, b2, b3, mk, rfl, hr, hE, rfl⟩ | ⟨b1, b2, b3, b4, mk, rfl, hr, hE, rfl⟩ <;>
    simp [decode, *]

/-- A decoding uses exactly as many bytes as the instruction is long. -/
theorem length_of_decode {bytes rest : List Byte} {i : Instr} (h : decode bytes = .ok (i, rest)) :
    bytes.length = i.length + rest.length := by
  rcases decode_eq_ok h with ⟨b1, rfl, hr⟩ | ⟨b1, b2, mk, rfl, hr, rfl⟩ |
    ⟨b1, b2, b3, mk, rfl, hr, hE, rfl⟩ | ⟨b1, b2, b3, b4, mk, rfl, hr, hE, rfl⟩ <;>
    have hm := opcodeRow_makes hr
  · simp [Instr.length, hm.1]; omega
  · simp [Instr.length, (hm _ _).1]; omega
  · simp [Instr.length, (hm _).1, MemRef.length]; omega
  · simp [Instr.length, (hm _).1, MemRef.length]; omega

/-- No instruction is longer than four bytes. -/
theorem Instr.length_le (i : Instr) : i.length ≤ 4 := by
  unfold Instr.length
  rcases i.shape with _ | _ | m
  · decide
  · simp
  · cases m <;> simp [MemRef.length]

end Sys2Proof
end

