-- ==== Sys2Proof/Laws/PerInstr.lean ====
section
/-! SUPPORT. Laws/PerInstr.lean: facts about every instruction as syntax, one lemma per constructor. -/

namespace Sys2Proof.Laws

/-- The instruction a row of the opcode map makes of the given fields, where the fields have the row's format. -/
def rowMakes (row : OpcodeRow) (shape : Shape) : Option Instr :=
  match row, shape with
  | .format1 instr, .format1 => some instr
  | .format2 mk, .format2 r1 r2 => some (mk r1 r2)
  | .memory mk, .memory m => some (mk m)
  | _, _ => none

/-- The bytes of an instruction are as many as its length (30_encoding.md R30). -/
def EncodedLength.Statement (i : Instr) : Prop := (encode i).length = i.length

theorem encodeMemory_length (op : Byte) (m : MemRef) : (encodeMemory op m).length = m.length := by
  cases m <;> rfl

/-- The row of an instruction's opcode makes the instruction from its own fields, and the opcode is a multiple of 4
(30_encoding.md R31, R39). -/
def OpcodeRow.Statement (i : Instr) : Prop :=
  (opcodeRow i.opcode).bind (fun row => rowMakes row i.shape) = some i ∧ opcodeOf i.opcode = i.opcode

theorem EncodedLength.lda (m : MemRef) : EncodedLength.Statement (.lda m) := encodeMemory_length _ m

theorem EncodedLength.ldx (m : MemRef) : EncodedLength.Statement (.ldx m) := encodeMemory_length _ m

theorem EncodedLength.ldl (m : MemRef) : EncodedLength.Statement (.ldl m) := encodeMemory_length _ m

theorem EncodedLength.sta (m : MemRef) : EncodedLength.Statement (.sta m) := encodeMemory_length _ m

theorem EncodedLength.stx (m : MemRef) : EncodedLength.Statement (.stx m) := encodeMemory_length _ m

theorem EncodedLength.stl (m : MemRef) : EncodedLength.Statement (.stl m) := encodeMemory_length _ m

theorem EncodedLength.add (m : MemRef) : EncodedLength.Statement (.add m) := encodeMemory_length _ m

theorem EncodedLength.sub (m : MemRef) : EncodedLength.Statement (.sub m) := encodeMemory_length _ m

theorem EncodedLength.mul (m : MemRef) : EncodedLength.Statement (.mul m) := encodeMemory_length _ m

theorem EncodedLength.div (m : MemRef) : EncodedLength.Statement (.div m) := encodeMemory_length _ m

theorem EncodedLength.comp (m : MemRef) : EncodedLength.Statement (.comp m) := encodeMemory_length _ m

theorem EncodedLength.tix (m : MemRef) : EncodedLength.Statement (.tix m) := encodeMemory_length _ m

theorem EncodedLength.jeq (m : MemRef) : EncodedLength.Statement (.jeq m) := encodeMemory_length _ m

theorem EncodedLength.jgt (m : MemRef) : EncodedLength.Statement (.jgt m) := encodeMemory_length _ m

theorem EncodedLength.jlt (m : MemRef) : EncodedLength.Statement (.jlt m) := encodeMemory_length _ m

theorem EncodedLength.j (m : MemRef) : EncodedLength.Statement (.j m) := encodeMemory_length _ m

theorem EncodedLength.and (m : MemRef) : EncodedLength.Statement (.and m) := encodeMemory_length _ m

theorem EncodedLength.or (m : MemRef) : EncodedLength.Statement (.or m) := encodeMemory_length _ m

theorem EncodedLength.jsub (m : MemRef) : EncodedLength.Statement (.jsub m) := encodeMemory_length _ m

theorem EncodedLength.rsub (m : MemRef) : EncodedLength.Statement (.rsub m) := encodeMemory_length _ m

theorem EncodedLength.ldch (m : MemRef) : EncodedLength.Statement (.ldch m) := encodeMemory_length _ m

theorem EncodedLength.stch (m : MemRef) : EncodedLength.Statement (.stch m) := encodeMemory_length _ m

theorem EncodedLength.ldb (m : MemRef) : EncodedLength.Statement (.ldb m) := encodeMemory_length _ m

theorem EncodedLength.lds (m : MemRef) : EncodedLength.Statement (.lds m) := encodeMemory_length _ m

theorem EncodedLength.ldt (m : MemRef) : EncodedLength.Statement (.ldt m) := encodeMemory_length _ m

theorem EncodedLength.stb (m : MemRef) : EncodedLength.Statement (.stb m) := encodeMemory_length _ m

theorem EncodedLength.sts (m : MemRef) : EncodedLength.Statement (.sts m) := encodeMemory_length _ m

theorem EncodedLength.stt (m : MemRef) : EncodedLength.Statement (.stt m) := encodeMemory_length _ m

theorem EncodedLength.addr (r1 r2 : Nibble) : EncodedLength.Statement (.addr r1 r2) := rfl

theorem EncodedLength.subr (r1 r2 : Nibble) : EncodedLength.Statement (.subr r1 r2) := rfl

theorem EncodedLength.mulr (r1 r2 : Nibble) : EncodedLength.Statement (.mulr r1 r2) := rfl

theorem EncodedLength.divr (r1 r2 : Nibble) : EncodedLength.Statement (.divr r1 r2) := rfl

theorem EncodedLength.compr (r1 r2 : Nibble) : EncodedLength.Statement (.compr r1 r2) := rfl

theorem EncodedLength.shiftl (r1 r2 : Nibble) : EncodedLength.Statement (.shiftl r1 r2) := rfl

theorem EncodedLength.shiftr (r1 r2 : Nibble) : EncodedLength.Statement (.shiftr r1 r2) := rfl

theorem EncodedLength.rmo (r1 r2 : Nibble) : EncodedLength.Statement (.rmo r1 r2) := rfl

theorem EncodedLength.clear (r1 r2 : Nibble) : EncodedLength.Statement (.clear r1 r2) := rfl

theorem EncodedLength.unsupportedB0 (r1 r2 : Nibble) : EncodedLength.Statement (.unsupportedB0 r1 r2) := rfl

theorem EncodedLength.unsupportedB8 (r1 r2 : Nibble) : EncodedLength.Statement (.unsupportedB8 r1 r2) := rfl

theorem EncodedLength.unsupportedC0 : EncodedLength.Statement .unsupportedC0 := rfl

theorem EncodedLength.unsupportedC4 : EncodedLength.Statement .unsupportedC4 := rfl

theorem EncodedLength.unsupportedC8 : EncodedLength.Statement .unsupportedC8 := rfl

theorem EncodedLength.unsupportedF0 : EncodedLength.Statement .unsupportedF0 := rfl

theorem EncodedLength.unsupportedF4 : EncodedLength.Statement .unsupportedF4 := rfl

theorem EncodedLength.unsupportedF8 : EncodedLength.Statement .unsupportedF8 := rfl

theorem EncodedLength.unsupported58 (m : MemRef) : EncodedLength.Statement (.unsupported58 m) := encodeMemory_length _ m

theorem EncodedLength.unsupported5C (m : MemRef) : EncodedLength.Statement (.unsupported5C m) := encodeMemory_length _ m

theorem EncodedLength.unsupported60 (m : MemRef) : EncodedLength.Statement (.unsupported60 m) := encodeMemory_length _ m

theorem EncodedLength.unsupported64 (m : MemRef) : EncodedLength.Statement (.unsupported64 m) := encodeMemory_length _ m

theorem EncodedLength.unsupported70 (m : MemRef) : EncodedLength.Statement (.unsupported70 m) := encodeMemory_length _ m

theorem EncodedLength.unsupported80 (m : MemRef) : EncodedLength.Statement (.unsupported80 m) := encodeMemory_length _ m

theorem EncodedLength.unsupported88 (m : MemRef) : EncodedLength.Statement (.unsupported88 m) := encodeMemory_length _ m

theorem EncodedLength.unsupported8C (m : MemRef) : EncodedLength.Statement (.unsupported8C m) := encodeMemory_length _ m

theorem EncodedLength.unsupportedBC (m : MemRef) : EncodedLength.Statement (.unsupportedBC m) := encodeMemory_length _ m

theorem EncodedLength.unsupportedCC (m : MemRef) : EncodedLength.Statement (.unsupportedCC m) := encodeMemory_length _ m

theorem EncodedLength.unsupportedD0 (m : MemRef) : EncodedLength.Statement (.unsupportedD0 m) := encodeMemory_length _ m

theorem EncodedLength.unsupportedD4 (m : MemRef) : EncodedLength.Statement (.unsupportedD4 m) := encodeMemory_length _ m

theorem EncodedLength.unsupportedD8 (m : MemRef) : EncodedLength.Statement (.unsupportedD8 m) := encodeMemory_length _ m

theorem EncodedLength.unsupportedDC (m : MemRef) : EncodedLength.Statement (.unsupportedDC m) := encodeMemory_length _ m

theorem EncodedLength.unsupportedE0 (m : MemRef) : EncodedLength.Statement (.unsupportedE0 m) := encodeMemory_length _ m

theorem EncodedLength.unsupportedE4 (m : MemRef) : EncodedLength.Statement (.unsupportedE4 m) := encodeMemory_length _ m

theorem EncodedLength.unsupportedE8 (m : MemRef) : EncodedLength.Statement (.unsupportedE8 m) := encodeMemory_length _ m

theorem EncodedLength.unsupportedEC (m : MemRef) : EncodedLength.Statement (.unsupportedEC m) := encodeMemory_length _ m

theorem EncodedLength.unsupportedFC (m : MemRef) : EncodedLength.Statement (.unsupportedFC m) := encodeMemory_length _ m

theorem OpcodeRow.lda (m : MemRef) : OpcodeRow.Statement (.lda m) := ⟨rfl, show opcodeOf 0x00#8 = 0x00#8 by decide⟩

theorem OpcodeRow.ldx (m : MemRef) : OpcodeRow.Statement (.ldx m) := ⟨rfl, show opcodeOf 0x04#8 = 0x04#8 by decide⟩

theorem OpcodeRow.ldl (m : MemRef) : OpcodeRow.Statement (.ldl m) := ⟨rfl, show opcodeOf 0x08#8 = 0x08#8 by decide⟩

theorem OpcodeRow.sta (m : MemRef) : OpcodeRow.Statement (.sta m) := ⟨rfl, show opcodeOf 0x0C#8 = 0x0C#8 by decide⟩

theorem OpcodeRow.stx (m : MemRef) : OpcodeRow.Statement (.stx m) := ⟨rfl, show opcodeOf 0x10#8 = 0x10#8 by decide⟩

theorem OpcodeRow.stl (m : MemRef) : OpcodeRow.Statement (.stl m) := ⟨rfl, show opcodeOf 0x14#8 = 0x14#8 by decide⟩

theorem OpcodeRow.add (m : MemRef) : OpcodeRow.Statement (.add m) := ⟨rfl, show opcodeOf 0x18#8 = 0x18#8 by decide⟩

theorem OpcodeRow.sub (m : MemRef) : OpcodeRow.Statement (.sub m) := ⟨rfl, show opcodeOf 0x1C#8 = 0x1C#8 by decide⟩

theorem OpcodeRow.mul (m : MemRef) : OpcodeRow.Statement (.mul m) := ⟨rfl, show opcodeOf 0x20#8 = 0x20#8 by decide⟩

theorem OpcodeRow.div (m : MemRef) : OpcodeRow.Statement (.div m) := ⟨rfl, show opcodeOf 0x24#8 = 0x24#8 by decide⟩

theorem OpcodeRow.comp (m : MemRef) : OpcodeRow.Statement (.comp m) := ⟨rfl, show opcodeOf 0x28#8 = 0x28#8 by decide⟩

theorem OpcodeRow.tix (m : MemRef) : OpcodeRow.Statement (.tix m) := ⟨rfl, show opcodeOf 0x2C#8 = 0x2C#8 by decide⟩

theorem OpcodeRow.jeq (m : MemRef) : OpcodeRow.Statement (.jeq m) := ⟨rfl, show opcodeOf 0x30#8 = 0x30#8 by decide⟩

theorem OpcodeRow.jgt (m : MemRef) : OpcodeRow.Statement (.jgt m) := ⟨rfl, show opcodeOf 0x34#8 = 0x34#8 by decide⟩

theorem OpcodeRow.jlt (m : MemRef) : OpcodeRow.Statement (.jlt m) := ⟨rfl, show opcodeOf 0x38#8 = 0x38#8 by decide⟩

theorem OpcodeRow.j (m : MemRef) : OpcodeRow.Statement (.j m) := ⟨rfl, show opcodeOf 0x3C#8 = 0x3C#8 by decide⟩

theorem OpcodeRow.and (m : MemRef) : OpcodeRow.Statement (.and m) := ⟨rfl, show opcodeOf 0x40#8 = 0x40#8 by decide⟩

theorem OpcodeRow.or (m : MemRef) : OpcodeRow.Statement (.or m) := ⟨rfl, show opcodeOf 0x44#8 = 0x44#8 by decide⟩

theorem OpcodeRow.jsub (m : MemRef) : OpcodeRow.Statement (.jsub m) := ⟨rfl, show opcodeOf 0x48#8 = 0x48#8 by decide⟩

theorem OpcodeRow.rsub (m : MemRef) : OpcodeRow.Statement (.rsub m) := ⟨rfl, show opcodeOf 0x4C#8 = 0x4C#8 by decide⟩

theorem OpcodeRow.ldch (m : MemRef) : OpcodeRow.Statement (.ldch m) := ⟨rfl, show opcodeOf 0x50#8 = 0x50#8 by decide⟩

theorem OpcodeRow.stch (m : MemRef) : OpcodeRow.Statement (.stch m) := ⟨rfl, show opcodeOf 0x54#8 = 0x54#8 by decide⟩

theorem OpcodeRow.ldb (m : MemRef) : OpcodeRow.Statement (.ldb m) := ⟨rfl, show opcodeOf 0x68#8 = 0x68#8 by decide⟩

theorem OpcodeRow.lds (m : MemRef) : OpcodeRow.Statement (.lds m) := ⟨rfl, show opcodeOf 0x6C#8 = 0x6C#8 by decide⟩

theorem OpcodeRow.ldt (m : MemRef) : OpcodeRow.Statement (.ldt m) := ⟨rfl, show opcodeOf 0x74#8 = 0x74#8 by decide⟩

theorem OpcodeRow.stb (m : MemRef) : OpcodeRow.Statement (.stb m) := ⟨rfl, show opcodeOf 0x78#8 = 0x78#8 by decide⟩

theorem OpcodeRow.sts (m : MemRef) : OpcodeRow.Statement (.sts m) := ⟨rfl, show opcodeOf 0x7C#8 = 0x7C#8 by decide⟩

theorem OpcodeRow.stt (m : MemRef) : OpcodeRow.Statement (.stt m) := ⟨rfl, show opcodeOf 0x84#8 = 0x84#8 by decide⟩

theorem OpcodeRow.addr (r1 r2 : Nibble) : OpcodeRow.Statement (.addr r1 r2) := ⟨rfl, show opcodeOf 0x90#8 = 0x90#8 by decide⟩

theorem OpcodeRow.subr (r1 r2 : Nibble) : OpcodeRow.Statement (.subr r1 r2) := ⟨rfl, show opcodeOf 0x94#8 = 0x94#8 by decide⟩

theorem OpcodeRow.mulr (r1 r2 : Nibble) : OpcodeRow.Statement (.mulr r1 r2) := ⟨rfl, show opcodeOf 0x98#8 = 0x98#8 by decide⟩

theorem OpcodeRow.divr (r1 r2 : Nibble) : OpcodeRow.Statement (.divr r1 r2) := ⟨rfl, show opcodeOf 0x9C#8 = 0x9C#8 by decide⟩

theorem OpcodeRow.compr (r1 r2 : Nibble) : OpcodeRow.Statement (.compr r1 r2) := ⟨rfl, show opcodeOf 0xA0#8 = 0xA0#8 by decide⟩

theorem OpcodeRow.shiftl (r1 r2 : Nibble) : OpcodeRow.Statement (.shiftl r1 r2) := ⟨rfl, show opcodeOf 0xA4#8 = 0xA4#8 by decide⟩

theorem OpcodeRow.shiftr (r1 r2 : Nibble) : OpcodeRow.Statement (.shiftr r1 r2) := ⟨rfl, show opcodeOf 0xA8#8 = 0xA8#8 by decide⟩

theorem OpcodeRow.rmo (r1 r2 : Nibble) : OpcodeRow.Statement (.rmo r1 r2) := ⟨rfl, show opcodeOf 0xAC#8 = 0xAC#8 by decide⟩

theorem OpcodeRow.clear (r1 r2 : Nibble) : OpcodeRow.Statement (.clear r1 r2) := ⟨rfl, show opcodeOf 0xB4#8 = 0xB4#8 by decide⟩

theorem OpcodeRow.unsupportedB0 (r1 r2 : Nibble) : OpcodeRow.Statement (.unsupportedB0 r1 r2) := ⟨rfl, show opcodeOf 0xB0#8 = 0xB0#8 by decide⟩

theorem OpcodeRow.unsupportedB8 (r1 r2 : Nibble) : OpcodeRow.Statement (.unsupportedB8 r1 r2) := ⟨rfl, show opcodeOf 0xB8#8 = 0xB8#8 by decide⟩

theorem OpcodeRow.unsupportedC0 : OpcodeRow.Statement .unsupportedC0 := ⟨rfl, show opcodeOf 0xC0#8 = 0xC0#8 by decide⟩

theorem OpcodeRow.unsupportedC4 : OpcodeRow.Statement .unsupportedC4 := ⟨rfl, show opcodeOf 0xC4#8 = 0xC4#8 by decide⟩

theorem OpcodeRow.unsupportedC8 : OpcodeRow.Statement .unsupportedC8 := ⟨rfl, show opcodeOf 0xC8#8 = 0xC8#8 by decide⟩

theorem OpcodeRow.unsupportedF0 : OpcodeRow.Statement .unsupportedF0 := ⟨rfl, show opcodeOf 0xF0#8 = 0xF0#8 by decide⟩

theorem OpcodeRow.unsupportedF4 : OpcodeRow.Statement .unsupportedF4 := ⟨rfl, show opcodeOf 0xF4#8 = 0xF4#8 by decide⟩

theorem OpcodeRow.unsupportedF8 : OpcodeRow.Statement .unsupportedF8 := ⟨rfl, show opcodeOf 0xF8#8 = 0xF8#8 by decide⟩

theorem OpcodeRow.unsupported58 (m : MemRef) : OpcodeRow.Statement (.unsupported58 m) := ⟨rfl, show opcodeOf 0x58#8 = 0x58#8 by decide⟩

theorem OpcodeRow.unsupported5C (m : MemRef) : OpcodeRow.Statement (.unsupported5C m) := ⟨rfl, show opcodeOf 0x5C#8 = 0x5C#8 by decide⟩

theorem OpcodeRow.unsupported60 (m : MemRef) : OpcodeRow.Statement (.unsupported60 m) := ⟨rfl, show opcodeOf 0x60#8 = 0x60#8 by decide⟩

theorem OpcodeRow.unsupported64 (m : MemRef) : OpcodeRow.Statement (.unsupported64 m) := ⟨rfl, show opcodeOf 0x64#8 = 0x64#8 by decide⟩

theorem OpcodeRow.unsupported70 (m : MemRef) : OpcodeRow.Statement (.unsupported70 m) := ⟨rfl, show opcodeOf 0x70#8 = 0x70#8 by decide⟩

theorem OpcodeRow.unsupported80 (m : MemRef) : OpcodeRow.Statement (.unsupported80 m) := ⟨rfl, show opcodeOf 0x80#8 = 0x80#8 by decide⟩

theorem OpcodeRow.unsupported88 (m : MemRef) : OpcodeRow.Statement (.unsupported88 m) := ⟨rfl, show opcodeOf 0x88#8 = 0x88#8 by decide⟩

theorem OpcodeRow.unsupported8C (m : MemRef) : OpcodeRow.Statement (.unsupported8C m) := ⟨rfl, show opcodeOf 0x8C#8 = 0x8C#8 by decide⟩

theorem OpcodeRow.unsupportedBC (m : MemRef) : OpcodeRow.Statement (.unsupportedBC m) := ⟨rfl, show opcodeOf 0xBC#8 = 0xBC#8 by decide⟩

theorem OpcodeRow.unsupportedCC (m : MemRef) : OpcodeRow.Statement (.unsupportedCC m) := ⟨rfl, show opcodeOf 0xCC#8 = 0xCC#8 by decide⟩

theorem OpcodeRow.unsupportedD0 (m : MemRef) : OpcodeRow.Statement (.unsupportedD0 m) := ⟨rfl, show opcodeOf 0xD0#8 = 0xD0#8 by decide⟩

theorem OpcodeRow.unsupportedD4 (m : MemRef) : OpcodeRow.Statement (.unsupportedD4 m) := ⟨rfl, show opcodeOf 0xD4#8 = 0xD4#8 by decide⟩

theorem OpcodeRow.unsupportedD8 (m : MemRef) : OpcodeRow.Statement (.unsupportedD8 m) := ⟨rfl, show opcodeOf 0xD8#8 = 0xD8#8 by decide⟩

theorem OpcodeRow.unsupportedDC (m : MemRef) : OpcodeRow.Statement (.unsupportedDC m) := ⟨rfl, show opcodeOf 0xDC#8 = 0xDC#8 by decide⟩

theorem OpcodeRow.unsupportedE0 (m : MemRef) : OpcodeRow.Statement (.unsupportedE0 m) := ⟨rfl, show opcodeOf 0xE0#8 = 0xE0#8 by decide⟩

theorem OpcodeRow.unsupportedE4 (m : MemRef) : OpcodeRow.Statement (.unsupportedE4 m) := ⟨rfl, show opcodeOf 0xE4#8 = 0xE4#8 by decide⟩

theorem OpcodeRow.unsupportedE8 (m : MemRef) : OpcodeRow.Statement (.unsupportedE8 m) := ⟨rfl, show opcodeOf 0xE8#8 = 0xE8#8 by decide⟩

theorem OpcodeRow.unsupportedEC (m : MemRef) : OpcodeRow.Statement (.unsupportedEC m) := ⟨rfl, show opcodeOf 0xEC#8 = 0xEC#8 by decide⟩

theorem OpcodeRow.unsupportedFC (m : MemRef) : OpcodeRow.Statement (.unsupportedFC m) := ⟨rfl, show opcodeOf 0xFC#8 = 0xFC#8 by decide⟩

end Sys2Proof.Laws
end

