-- ==== Sys2Proof/Tests/Slice0.lean ====
section
/-! SUPPORT. Tests/Slice0.lean: the model's own tests. Expected values are those of spec/95_test_vectors.md (the vector's name
stands in the docstring) or are worked out by hand from the rule named there; encodings are written out from
30_encoding.md R33 to R37. -/

namespace Sys2Proof.Tests

open Sys2Proof Sys2Proof.Machine

/-! ## Helpers -/

/-- 256 words of memory (`SIZE = 0x300`), everything zero: the start state of spec/95_test_vectors.md. -/
def small : State := { State.reset with memWords := 256 }

/-- A word stored at an address. -/
def put (a : Nat) (w : Word) (s : State) : State :=
  s.placeBytes a [w.extractLsb' 16 8, w.extractLsb' 8 8, w.extractLsb' 0 8]

/-- The state with instruction bytes at its `PC`. -/
def load (bytes : List Byte) (s : State) : State := s.placeBytes s.pc.toNat bytes

/-- The next state of a step, if it completes. -/
def nextOf : StepResult → Option State
  | .next t => some t
  | .fault _ => none
  | .refused _ => none

/-- The fault of a step, if it fails. -/
def faultOf : StepResult → Option Fault
  | .next _ => none
  | .fault e => some e
  | .refused _ => none

/-- One step with the bytes placed at `PC`. -/
def go (bytes : List Byte) (s : State) : Option State := nextOf (step (load bytes s))

/-- The fault of one step with the bytes placed at `PC`. -/
def goFault (bytes : List Byte) (s : State) : Option Fault := faultOf (step (load bytes s))

/-- The flags `n i x b p` of simple direct addressing. -/
def simple : AddrFlags := ⟨true, true, false, false, false⟩

/-- The flags of immediate direct addressing. -/
def immediate : AddrFlags := ⟨false, true, false, false, false⟩

/-- The flags of indirect direct addressing. -/
def indirect : AddrFlags := ⟨true, false, false, false, false⟩

/-! ## Well-formedness -/

/-- 30_encoding.md R36: the displacement check refuses 2048 and accepts 2047. -/
theorem test_wellFormed_disp_upper :
    WellFormed (.lda (.format3 simple 2048)) = false ∧ WellFormed (.lda (.format3 simple 2047)) = true := by
  decide

/-- 30_encoding.md R36: the displacement check refuses -2049 and accepts -2048. -/
theorem test_wellFormed_disp_lower :
    WellFormed (.j (.format3 simple (-2049))) = false ∧ WellFormed (.j (.format3 simple (-2048))) = true := by
  decide

/-- The memory of the reset state is in canonical form. -/
theorem test_reset_memory_wf : Memory.wf State.reset.mem := by decide

/-! ## Decoding: every constructor from a word written out from the spec's encoding -/

/-- 30_encoding.md R33 to R37, R39: LDA LDX LDL LDB LDS LDT LDCH. -/
theorem test_decode_word_loads :
    decodeTableWord 24 0x032123 = some (.lda (.format3 ⟨true, true, false, false, true⟩ 291)) ∧
    decodeTableWord 32 0x019A5CD6 = some (.lda (.format4 ⟨false, true, true, false, false⟩ 0xA5CD6#20)) ∧
    decodeTableWord 24 0x050800 = some (.ldx (.format3 ⟨false, true, false, false, false⟩ (-2048))) ∧
    decodeTableWord 32 0x0614D3C1 = some (.ldx (.format4 ⟨true, false, false, false, false⟩ 0x4D3C1#20)) ∧
    decodeTableWord 24 0x0A87FF = some (.ldl (.format3 ⟨true, false, true, false, false⟩ 2047)) ∧
    decodeTableWord 32 0x085CA264 = some (.ldl (.format4 ⟨false, false, false, true, false⟩ 0xCA264#20)) ∧
    decodeTableWord 24 0x68AFFF = some (.ldb (.format3 ⟨false, false, true, false, true⟩ (-1))) ∧
    decodeTableWord 32 0x6BD18B8F = some (.ldb (.format4 ⟨true, true, true, true, false⟩ 0x18B8F#20)) ∧
    decodeTableWord 24 0x6F4456 = some (.lds (.format3 ⟨true, true, false, true, false⟩ 1110)) ∧
    decodeTableWord 32 0x6D325165 = some (.lds (.format4 ⟨false, true, false, false, true⟩ 0x25165#20)) ∧
    decodeTableWord 24 0x754FF7 = some (.ldt (.format3 ⟨false, true, false, true, false⟩ (-9))) ∧
    decodeTableWord 32 0x7633031D = some (.ldt (.format4 ⟨true, false, false, false, true⟩ 0x3031D#20)) ∧
    decodeTableWord 24 0x52E078 = some (.ldch (.format3 ⟨true, false, true, true, true⟩ 120)) ∧
    decodeTableWord 32 0x50FBB3B9 = some (.ldch (.format4 ⟨false, false, true, true, true⟩ 0xBB3B9#20)) := by
  decide

/-- 30_encoding.md R33 to R37, R39: STA STX STL STB STS STT STCH. -/
theorem test_decode_stores :
    decodeTableWord 24 0x0CC123 = some (.sta (.format3 ⟨false, false, true, true, false⟩ 291)) ∧
    decodeTableWord 32 0x0F71DB20 = some (.sta (.format4 ⟨true, true, false, true, true⟩ 0x1DB20#20)) ∧
    decodeTableWord 24 0x130800 = some (.stx (.format3 ⟨true, true, false, false, false⟩ (-2048))) ∧
    decodeTableWord 32 0x1116DECE = some (.stx (.format4 ⟨false, true, false, false, false⟩ 0x6DECE#20)) ∧
    decodeTableWord 24 0x1527FF = some (.stl (.format3 ⟨false, true, false, false, true⟩ 2047)) ∧
    decodeTableWord 32 0x1691332A = some (.stl (.format4 ⟨true, false, true, false, false⟩ 0x1332A#20)) ∧
    decodeTableWord 24 0x7A8FFF = some (.stb (.format3 ⟨true, false, true, false, false⟩ (-1))) ∧
    decodeTableWord 32 0x7852C014 = some (.stb (.format4 ⟨false, false, false, true, false⟩ 0x2C014#20)) ∧
    decodeTableWord 24 0x7C8456 = some (.sts (.format3 ⟨false, false, true, false, false⟩ 1110)) ∧
    decodeTableWord 32 0x7F5DE06C = some (.sts (.format4 ⟨true, true, false, true, false⟩ 0xDE06C#20)) ∧
    decodeTableWord 24 0x876FF7 = some (.stt (.format3 ⟨true, true, false, true, true⟩ (-9))) ∧
    decodeTableWord 32 0x85BD61AA = some (.stt (.format4 ⟨false, true, true, false, true⟩ 0xD61AA#20)) ∧
    decodeTableWord 24 0x554078 = some (.stch (.format3 ⟨false, true, false, true, false⟩ 120)) ∧
    decodeTableWord 32 0x56323C41 = some (.stch (.format4 ⟨true, false, false, false, true⟩ 0x23C41#20)) := by
  decide

/-- 30_encoding.md R33 to R37, R39: ADD SUB MUL DIV. -/
theorem test_decode_arithmetic :
    decodeTableWord 24 0x1AC123 = some (.add (.format3 ⟨true, false, true, true, false⟩ 291)) ∧
    decodeTableWord 32 0x1877B382 = some (.add (.format4 ⟨false, false, false, true, true⟩ 0x7B382#20)) ∧
    decodeTableWord 24 0x1CE800 = some (.sub (.format3 ⟨false, false, true, true, true⟩ (-2048))) ∧
    decodeTableWord 32 0x1FF2E71E = some (.sub (.format4 ⟨true, true, true, true, true⟩ 0x2E71E#20)) ∧
    decodeTableWord 24 0x2307FF = some (.mul (.format3 ⟨true, true, false, false, false⟩ 2047)) ∧
    decodeTableWord 32 0x211D95A9 = some (.mul (.format4 ⟨false, true, false, false, false⟩ 0xD95A9#20)) ∧
    decodeTableWord 24 0x250FFF = some (.div (.format3 ⟨false, true, false, false, false⟩ (-1))) ∧
    decodeTableWord 32 0x2611E43B = some (.div (.format4 ⟨true, false, false, false, false⟩ 0x1E43B#20)) := by
  decide

/-- 30_encoding.md R33 to R37, R39: COMP AND OR TIX. -/
theorem test_decode_compare_logic :
    decodeTableWord 24 0x2AA456 = some (.comp (.format3 ⟨true, false, true, false, true⟩ 1110)) ∧
    decodeTableWord 32 0x28D3F62F = some (.comp (.format4 ⟨false, false, true, true, false⟩ 0x3F62F#20)) ∧
    decodeTableWord 24 0x408FF7 = some (.and (.format3 ⟨false, false, true, false, false⟩ (-9))) ∧
    decodeTableWord 32 0x435724C6 = some (.and (.format4 ⟨true, true, false, true, false⟩ 0x724C6#20)) ∧
    decodeTableWord 24 0x474078 = some (.or (.format3 ⟨true, true, false, true, false⟩ 120)) ∧
    decodeTableWord 32 0x4531FAC6 = some (.or (.format4 ⟨false, true, false, false, true⟩ 0x1FAC6#20)) ∧
    decodeTableWord 24 0x2D6123 = some (.tix (.format3 ⟨false, true, false, true, true⟩ 291)) ∧
    decodeTableWord 32 0x2EBCB19B = some (.tix (.format4 ⟨true, false, true, false, true⟩ 0xCB19B#20)) := by
  decide

/-- 30_encoding.md R33 to R37, R39: J JEQ JGT JLT JSUB RSUB. -/
theorem test_decode_control :
    decodeTableWord 24 0x3EC800 = some (.j (.format3 ⟨true, false, true, true, false⟩ (-2048))) ∧
    decodeTableWord 32 0x3C71963C = some (.j (.format4 ⟨false, false, false, true, true⟩ 0x1963C#20)) ∧
    decodeTableWord 24 0x30C7FF = some (.jeq (.format3 ⟨false, false, true, true, false⟩ 2047)) ∧
    decodeTableWord 32 0x3377131A = some (.jeq (.format4 ⟨true, true, false, true, true⟩ 0x7131A#20)) ∧
    decodeTableWord 24 0x372FFF = some (.jgt (.format3 ⟨true, true, false, false, true⟩ (-1))) ∧
    decodeTableWord 32 0x35917D9A = some (.jgt (.format4 ⟨false, true, true, false, false⟩ 0x17D9A#20)) ∧
    decodeTableWord 24 0x390456 = some (.jlt (.format3 ⟨false, true, false, false, false⟩ 1110)) ∧
    decodeTableWord 32 0x3A1442F7 = some (.jlt (.format4 ⟨true, false, false, false, false⟩ 0x442F7#20)) ∧
    decodeTableWord 24 0x4A8FF7 = some (.jsub (.format3 ⟨true, false, true, false, false⟩ (-9))) ∧
    decodeTableWord 32 0x4859447A = some (.jsub (.format4 ⟨false, false, false, true, false⟩ 0x9447A#20)) ∧
    decodeTableWord 24 0x4CA078 = some (.rsub (.format3 ⟨false, false, true, false, true⟩ 120)) ∧
    decodeTableWord 32 0x4FDD6996 = some (.rsub (.format4 ⟨true, true, true, true, false⟩ 0xD6996#20)) := by
  decide

/-- 30_encoding.md R33 to R37, R39: ADDR SUBR MULR DIVR COMPR SHIFTL SHIFTR RMO CLEAR. -/
theorem test_decode_register_register :
    decodeTableWord 16 0x90D6 = some (.addr 13#4 6#4) ∧
    decodeTableWord 16 0x9429 = some (.subr 2#4 9#4) ∧
    decodeTableWord 16 0x987C = some (.mulr 7#4 12#4) ∧
    decodeTableWord 16 0x9CCF = some (.divr 12#4 15#4) ∧
    decodeTableWord 16 0xA012 = some (.compr 1#4 2#4) ∧
    decodeTableWord 16 0xA465 = some (.shiftl 6#4 5#4) ∧
    decodeTableWord 16 0xA8B8 = some (.shiftr 11#4 8#4) ∧
    decodeTableWord 16 0xAC0B = some (.rmo 0#4 11#4) ∧
    decodeTableWord 16 0xB45E = some (.clear 5#4 14#4) := by
  decide

/-- 30_encoding.md R33 to R37, R39: unsupported_0x58 unsupported_0x5C unsupported_0x60 unsupported_0x64 unsupported_0x70 unsupported_0x80 unsupported_0x88 unsupported_0x8C unsupported_0xBC. -/
theorem test_decode_unsupported_low :
    decodeTableWord 24 0x5947FF = some (.unsupported58 (.format3 ⟨false, true, false, true, false⟩ 2047)) ∧
    decodeTableWord 32 0x5A349DBC = some (.unsupported58 (.format4 ⟨true, false, false, false, true⟩ 0x49DBC#20)) ∧
    decodeTableWord 24 0x5ECFFF = some (.unsupported5C (.format3 ⟨true, false, true, true, false⟩ (-1))) ∧
    decodeTableWord 32 0x5C73C4F4 = some (.unsupported5C (.format4 ⟨false, false, false, true, true⟩ 0x3C4F4#20)) ∧
    decodeTableWord 24 0x60E456 = some (.unsupported60 (.format3 ⟨false, false, true, true, true⟩ 1110)) ∧
    decodeTableWord 32 0x63F9DF15 = some (.unsupported60 (.format4 ⟨true, true, true, true, true⟩ 0x9DF15#20)) ∧
    decodeTableWord 24 0x670FF7 = some (.unsupported64 (.format3 ⟨true, true, false, false, false⟩ (-9))) ∧
    decodeTableWord 32 0x6515C882 = some (.unsupported64 (.format4 ⟨false, true, false, false, false⟩ 0x5C882#20)) ∧
    decodeTableWord 24 0x710078 = some (.unsupported70 (.format3 ⟨false, true, false, false, false⟩ 120)) ∧
    decodeTableWord 32 0x72134C3B = some (.unsupported70 (.format4 ⟨true, false, false, false, false⟩ 0x34C3B#20)) ∧
    decodeTableWord 24 0x82A123 = some (.unsupported80 (.format3 ⟨true, false, true, false, true⟩ 291)) ∧
    decodeTableWord 32 0x80D6030A = some (.unsupported80 (.format4 ⟨false, false, true, true, false⟩ 0x6030A#20)) ∧
    decodeTableWord 24 0x888800 = some (.unsupported88 (.format3 ⟨false, false, true, false, false⟩ (-2048))) ∧
    decodeTableWord 32 0x8B5BEAAE = some (.unsupported88 (.format4 ⟨true, true, false, true, false⟩ 0xBEAAE#20)) ∧
    decodeTableWord 24 0x8F47FF = some (.unsupported8C (.format3 ⟨true, true, false, true, false⟩ 2047)) ∧
    decodeTableWord 32 0x8D331E26 = some (.unsupported8C (.format4 ⟨false, true, false, false, true⟩ 0x31E26#20)) ∧
    decodeTableWord 24 0xBD6FFF = some (.unsupportedBC (.format3 ⟨false, true, false, true, true⟩ (-1))) ∧
    decodeTableWord 32 0xBEB2025E = some (.unsupportedBC (.format4 ⟨true, false, true, false, true⟩ 0x2025E#20)) := by
  decide

/-- 30_encoding.md R33 to R37, R39: unsupported_0xCC unsupported_0xD0 unsupported_0xD4 unsupported_0xD8 unsupported_0xDC unsupported_0xE0 unsupported_0xE4 unsupported_0xE8 unsupported_0xEC unsupported_0xFC. -/
theorem test_decode_unsupported_high :
    decodeTableWord 24 0xCEC456 = some (.unsupportedCC (.format3 ⟨true, false, true, true, false⟩ 1110)) ∧
    decodeTableWord 32 0xCC71E840 = some (.unsupportedCC (.format4 ⟨false, false, false, true, true⟩ 0x1E840#20)) ∧
    decodeTableWord 24 0xD0CFF7 = some (.unsupportedD0 (.format3 ⟨false, false, true, true, false⟩ (-9))) ∧
    decodeTableWord 32 0xD3769736 = some (.unsupportedD0 (.format4 ⟨true, true, false, true, true⟩ 0x69736#20)) ∧
    decodeTableWord 24 0xD72078 = some (.unsupportedD4 (.format3 ⟨true, true, false, false, true⟩ 120)) ∧
    decodeTableWord 32 0xD59FE2A0 = some (.unsupportedD4 (.format4 ⟨false, true, true, false, false⟩ 0xFE2A0#20)) ∧
    decodeTableWord 24 0xD90123 = some (.unsupportedD8 (.format3 ⟨false, true, false, false, false⟩ 291)) ∧
    decodeTableWord 32 0xDA1DAED6 = some (.unsupportedD8 (.format4 ⟨true, false, false, false, false⟩ 0xDAED6#20)) ∧
    decodeTableWord 24 0xDE8800 = some (.unsupportedDC (.format3 ⟨true, false, true, false, false⟩ (-2048))) ∧
    decodeTableWord 32 0xDC5A0D7E = some (.unsupportedDC (.format4 ⟨false, false, false, true, false⟩ 0xA0D7E#20)) ∧
    decodeTableWord 24 0xE0A7FF = some (.unsupportedE0 (.format3 ⟨false, false, true, false, true⟩ 2047)) ∧
    decodeTableWord 32 0xE3DEE635 = some (.unsupportedE0 (.format4 ⟨true, true, true, true, false⟩ 0xEE635#20)) ∧
    decodeTableWord 24 0xE74FFF = some (.unsupportedE4 (.format3 ⟨true, true, false, true, false⟩ (-1))) ∧
    decodeTableWord 32 0xE53E807C = some (.unsupportedE4 (.format4 ⟨false, true, false, false, true⟩ 0xE807C#20)) ∧
    decodeTableWord 24 0xE94456 = some (.unsupportedE8 (.format3 ⟨false, true, false, true, false⟩ 1110)) ∧
    decodeTableWord 32 0xEA3B9215 = some (.unsupportedE8 (.format4 ⟨true, false, false, false, true⟩ 0xB9215#20)) ∧
    decodeTableWord 24 0xEEEFF7 = some (.unsupportedEC (.format3 ⟨true, false, true, true, true⟩ (-9))) ∧
    decodeTableWord 32 0xECF997B0 = some (.unsupportedEC (.format4 ⟨false, false, true, true, true⟩ 0x997B0#20)) ∧
    decodeTableWord 24 0xFCC078 = some (.unsupportedFC (.format3 ⟨false, false, true, true, false⟩ 120)) ∧
    decodeTableWord 32 0xFF77F31C = some (.unsupportedFC (.format4 ⟨true, true, false, true, true⟩ 0x7F31C#20)) := by
  decide

/-- 30_encoding.md R33 to R37, R39: unsupported_0xB0 unsupported_0xB8 unsupported_0xC0 unsupported_0xC4 unsupported_0xC8 unsupported_0xF0 unsupported_0xF4 unsupported_0xF8. -/
theorem test_decode_unsupported_short :
    decodeTableWord 16 0xB09A = some (.unsupportedB0 9#4 10#4) ∧
    decodeTableWord 16 0xB8ED = some (.unsupportedB8 14#4 13#4) ∧
    decodeTableWord 8 0xC2 = some .unsupportedC0 ∧
    decodeTableWord 8 0xC7 = some .unsupportedC4 ∧
    decodeTableWord 8 0xC8 = some .unsupportedC8 ∧
    decodeTableWord 8 0xF1 = some .unsupportedF0 ∧
    decodeTableWord 8 0xF6 = some .unsupportedF4 ∧
    decodeTableWord 8 0xFB = some .unsupportedF8 := by
  decide

/-- V-DEC-6, V-DEC-8: the two low bits of byte 1 are ignored in formats 1 and 2. -/
theorem test_decode_ignored_bits :
    decodeTableWord 16 0xB75A = some (.clear 5#4 10#4) ∧ decodeTableWord 8 0xC7 = some .unsupportedC4 := by
  decide

/-- V-DEC-1, written as bits: 000011 n=1 i=1, x=0 b=0 p=0 e=0 0001, 00000000. -/
theorem test_decode_bits :
    decode [0b00001111#8, 0b00000001#8, 0b00000000#8] = .ok (.sta (.format3 simple 256), []) := by
  decide

/-- The encoder writes the bytes of V-DEC-3 (`69 10 02 00`) and of V-DEC-2 (`3B 2F F7`). -/
theorem test_encode_bytes :
    encode (.ldb (.format4 immediate 0x200#20)) = [0x69#8, 0x10#8, 0x02#8, 0x00#8] ∧
    encode (.jlt (.format3 ⟨true, true, false, false, true⟩ (-9))) = [0x3B#8, 0x2F#8, 0xF7#8] := by
  decide

/-! ## Steps -/

/-- V-OP-1. -/
theorem test_lda_simple : (go [0x03#8, 0x01#8, 0x00#8] (put 0x100 0x123456#24 small)).map
    (fun t => [t.regA, t.pc]) = some [0x123456#24, 0x000003#24] := by decide

/-- V-OP-3. -/
theorem test_lda_indirect : (go [0x02#8, 0x01#8, 0x00#8] (put 0x110 0xABCDEF#24 (put 0x100 0x000110#24 small))).map
    (fun t => [t.regA, t.pc]) = some [0xABCDEF#24, 0x000003#24] := by decide

/-- V-EA-3. -/
theorem test_lda_direct_quirk : (go [0x01#8, 0x0F#8, 0xFF#8] small).map
    (fun t => [t.regA, t.pc]) = some [0x0FFFFF#24, 0x000003#24] := by decide

/-- V-EA-8. -/
theorem test_format3_p_wins : (go [0x01#8, 0x60#8, 0x05#8] { small with regB := 0x000200#24 }).map
    (fun t => [t.regA, t.pc]) = some [0x000008#24, 0x000003#24] := by decide

/-- V-EA-9. -/
theorem test_format4_b_wins : (go [0x01#8, 0x70#8, 0x00#8, 0x05#8] { small with regB := 0x000200#24 }).map
    (fun t => [t.regA, t.pc]) = some [0x000205#24, 0x000004#24] := by decide

/-- V-EA-13. -/
theorem test_format4_indexed_carry : (go [0x01#8, 0x9F#8, 0xFF#8, 0xFF#8] { small with regX := 0x000001#24 }).map
    (fun t => [t.regA, t.pc]) = some [0x100000#24, 0x000004#24] := by decide

/-- V-EA-14. -/
theorem test_index_wraps : (go [0x01#8, 0x80#8, 0x01#8] { small with regX := 0xFFFFFF#24 }).map
    (fun t => [t.regA, t.pc]) = some [0x000000#24, 0x000003#24] := by decide

/-- V-OP-6. -/
theorem test_pointer_is_24_bits : goFault [0x02#8, 0x01#8, 0x00#8] (put 0x100 0xFFFFFF#24 small) =
    some (.addressError 0xFFFFFF) := by decide

/-- V-DG-6. -/
theorem test_degenerate_indexed : (go [0x00#8, 0x81#8, 0x00#8] (put 0x103 0x000077#24 { small with regX := 0x000003#24 })).map
    (fun t => [t.regA, t.pc]) = some [0x000077#24, 0x000003#24] := by decide

/-- V-LS-7. -/
theorem test_ldx_uses_old_x : (go [0x07#8, 0x81#8, 0x00#8] (put 0x103 0x000009#24 { small with regX := 0x000003#24 })).map
    (fun t => [t.regX, t.pc]) = some [0x000009#24, 0x000003#24] := by decide

/-- V-LS-2. -/
theorem test_ldl : (go [0x0B#8, 0x01#8, 0x00#8] (put 0x100 0xABCDEF#24 small)).map
    (fun t => [t.regL, t.pc]) = some [0xABCDEF#24, 0x000003#24] := by decide

/-- V-LS-8. -/
theorem test_ldb_uses_old_b : (go [0x6B#8, 0x40#8, 0x00#8] (put 0x100 0x000200#24 { small with regB := 0x000100#24 })).map
    (fun t => [t.regB, t.pc]) = some [0x000200#24, 0x000003#24] := by decide

/-- V-LS-4. -/
theorem test_lds : (go [0x6F#8, 0x01#8, 0x00#8] (put 0x100 0xABCDEF#24 small)).map
    (fun t => [t.regS, t.pc]) = some [0xABCDEF#24, 0x000003#24] := by decide

/-- V-LS-5. -/
theorem test_ldt : (go [0x77#8, 0x01#8, 0x00#8] (put 0x100 0xABCDEF#24 small)).map
    (fun t => [t.regT, t.pc]) = some [0xABCDEF#24, 0x000003#24] := by decide

/-- V-LS-10. -/
theorem test_sta_is_not_indirect : (go [0x0E#8, 0x01#8, 0x00#8] { small with regA := 0xABCDEF#24 }).map
    (fun t => [(Memory.byteAt t.mem 0x100).setWidth 24, (Memory.byteAt t.mem 0x101).setWidth 24, (Memory.byteAt t.mem 0x102).setWidth 24, t.pc]) = some [0x0000AB#24, 0x0000CD#24, 0x0000EF#24, 0x000003#24] := by decide

/-- V-LS-12. -/
theorem test_sta_span : goFault [0x0F#8, 0x02#8, 0xFE#8] { small with regA := 0xABCDEF#24 } =
    some (.addressError 0x2FE) := by decide

/-- V-LS-14. -/
theorem test_stx_based_indexed : (go [0x13#8, 0xC0#8, 0x02#8] { small with regX := 0x000004#24, regB := 0x000100#24 }).map
    (fun t => [(Memory.byteAt t.mem 0x106).setWidth 24, (Memory.byteAt t.mem 0x107).setWidth 24, (Memory.byteAt t.mem 0x108).setWidth 24, t.pc]) = some [0x000000#24, 0x000000#24, 0x000004#24, 0x000003#24] := by decide

/-- V-LS-9. -/
theorem test_stl : (go [0x17#8, 0x01#8, 0x00#8] { small with regL := 0x123456#24 }).map
    (fun t => [(Memory.byteAt t.mem 0x100).setWidth 24, (Memory.byteAt t.mem 0x101).setWidth 24, (Memory.byteAt t.mem 0x102).setWidth 24, t.regL]) = some [0x000012#24, 0x000034#24, 0x000056#24, 0x123456#24] := by decide

/-- V-LS-15. -/
theorem test_stb_based : (go [0x7B#8, 0x40#8, 0x10#8] { small with regB := 0x000100#24 }).map
    (fun t => [(Memory.byteAt t.mem 0x110).setWidth 24, (Memory.byteAt t.mem 0x111).setWidth 24, (Memory.byteAt t.mem 0x112).setWidth 24, t.pc]) = some [0x000000#24, 0x000001#24, 0x000000#24, 0x000003#24] := by decide

/-- V-LS-9. -/
theorem test_sts : (go [0x7F#8, 0x01#8, 0x00#8] { small with regS := 0x123456#24 }).map
    (fun t => [(Memory.byteAt t.mem 0x100).setWidth 24, (Memory.byteAt t.mem 0x101).setWidth 24, (Memory.byteAt t.mem 0x102).setWidth 24, t.regS]) = some [0x000012#24, 0x000034#24, 0x000056#24, 0x123456#24] := by decide

/-- V-LS-9. -/
theorem test_stt : (go [0x87#8, 0x01#8, 0x00#8] { small with regT := 0x123456#24 }).map
    (fun t => [(Memory.byteAt t.mem 0x100).setWidth 24, (Memory.byteAt t.mem 0x101).setWidth 24, (Memory.byteAt t.mem 0x102).setWidth 24, t.regT]) = some [0x000012#24, 0x000034#24, 0x000056#24, 0x123456#24] := by decide

/-- V-LS-17. -/
theorem test_ldch_immediate : (go [0x51#8, 0x01#8, 0x41#8] { small with regA := 0xFFFFFF#24 }).map
    (fun t => [t.regA, t.pc]) = some [0xFFFF41#24, 0x000003#24] := by decide

/-- V-LS-18. -/
theorem test_ldch_indirect : (go [0x52#8, 0x01#8, 0x00#8] (put 0x110 0x5A0000#24 (put 0x100 0x000110#24 small))).map
    (fun t => [t.regA, t.pc]) = some [0x00005A#24, 0x000003#24] := by decide

/-- V-LS-21. -/
theorem test_stch_last_byte : (go [0x57#8, 0x02#8, 0xFF#8] { small with regA := 0xABCDEF#24 }).map
    (fun t => [(Memory.byteAt t.mem 0x2FF).setWidth 24, t.pc]) = some [0x0000EF#24, 0x000003#24] := by decide

/-- V-LS-22. -/
theorem test_stch_outside : goFault [0x57#8, 0x03#8, 0x00#8] { small with regA := 0xABCDEF#24 } =
    some (.addressError 0x300) := by decide

/-- V-LS-26. -/
theorem test_store_over_itself : (go [0x0F#8, 0x00#8, 0x01#8] { small with regA := 0x3C0000#24 }).map
    (fun t => [(Memory.byteAt t.mem 0x0).setWidth 24, (Memory.byteAt t.mem 0x1).setWidth 24, (Memory.byteAt t.mem 0x2).setWidth 24, t.pc]) = some [0x00000F#24, 0x00003C#24, 0x000000#24, 0x000003#24] := by decide

/-- V-ADD-1. -/
theorem test_add_wraps : (go [0x1B#8, 0x01#8, 0x00#8] (put 0x100 0x000001#24 { small with regA := 0x7FFFFF#24 })).map
    (fun t => [t.regA, t.sw, t.pc]) = some [0x800000#24, 0x000000#24, 0x000003#24] := by decide

/-- V-SUB-3. -/
theorem test_sub_order : (go [0x1F#8, 0x01#8, 0x00#8] (put 0x100 0xFFFFFF#24 { small with regA := 0x000005#24 })).map
    (fun t => [t.regA, t.pc]) = some [0x000006#24, 0x000003#24] := by decide

/-- V-MUL-1. -/
theorem test_mul_signed : (go [0x23#8, 0x01#8, 0x00#8] (put 0x100 0xFFFFFE#24 { small with regA := 0x000003#24 })).map
    (fun t => [t.regA, t.pc]) = some [0xFFFFFA#24, 0x000003#24] := by decide

/-- V-MUL-4. -/
theorem test_mul_wraps : (go [0x23#8, 0x01#8, 0x00#8] (put 0x100 0x7FFFFF#24 { small with regA := 0x7FFFFF#24 })).map
    (fun t => [t.regA, t.pc]) = some [0x000001#24, 0x000003#24] := by decide

/-- V-DIV-2. -/
theorem test_div_toward_zero : (go [0x27#8, 0x01#8, 0x00#8] (put 0x100 0x000002#24 { small with regA := 0xFFFFF9#24 })).map
    (fun t => [t.regA, t.pc]) = some [0xFFFFFD#24, 0x000003#24] := by decide

/-- V-DIV-11. -/
theorem test_div_by_zero : goFault [0x25#8, 0x00#8, 0x00#8] { small with regA := 0x000007#24 } =
    some .arithmeticError := by decide

/-- V-CMP-1. -/
theorem test_comp_signed : (go [0x2B#8, 0x01#8, 0x00#8] (put 0x100 0x7FFFFF#24 { small with regA := 0x800000#24 })).map
    (fun t => [t.sw, t.regA, t.pc]) = some [0xFFFFFF#24, 0x800000#24, 0x000003#24] := by decide

/-- V-CMP-7. -/
theorem test_comp_immediate : (go [0x29#8, 0x0F#8, 0xFF#8] { small with regA := 0xFFFFFF#24 }).map
    (fun t => [t.sw, t.pc]) = some [0xFFFFFF#24, 0x000003#24] := by decide

/-- V-AND-1. -/
theorem test_and : (go [0x43#8, 0x01#8, 0x00#8] (put 0x100 0xFF00FF#24 { small with regA := 0xF0F0F0#24 })).map
    (fun t => [t.regA, t.pc]) = some [0xF000F0#24, 0x000003#24] := by decide

/-- V-OR-2. -/
theorem test_or_immediate : (go [0x45#8, 0x0F#8, 0xFF#8] { small with regA := 0x100000#24 }).map
    (fun t => [t.regA, t.pc]) = some [0x1FFFFF#24, 0x000003#24] := by decide

/-- V-TIX-2. -/
theorem test_tix_wraps : (go [0x2F#8, 0x01#8, 0x00#8] (put 0x100 0x000000#24 { small with regX := 0xFFFFFF#24 })).map
    (fun t => [t.regX, t.sw, t.pc]) = some [0x000000#24, 0x000000#24, 0x000003#24] := by decide

/-- V-TIX-3. -/
theorem test_tix_uses_old_x : (go [0x2F#8, 0x81#8, 0x00#8] (put 0x102 0x000003#24 { small with regX := 0x000002#24 })).map
    (fun t => [t.regX, t.sw, t.pc]) = some [0x000003#24, 0x000000#24, 0x000003#24] := by decide

/-- V-CT-4. -/
theorem test_j_is_not_indirect : (go [0x3E#8, 0x01#8, 0x00#8] (put 0x100 0x000200#24 small)).map
    (fun t => [t.pc]) = some [0x000100#24] := by decide

/-- V-BR-2. -/
theorem test_jeq_taken : (go [0x33#8, 0x20#8, 0x06#8] { small with pc := 0x000010#24 }).map
    (fun t => [t.pc]) = some [0x000019#24] := by decide

/-- V-BR-2. -/
theorem test_jeq_not_taken : (go [0x33#8, 0x20#8, 0x06#8] { small with pc := 0x000010#24, sw := 0x000001#24 }).map
    (fun t => [t.pc]) = some [0x000013#24] := by decide

/-- V-BR-3. -/
theorem test_jgt_taken : (go [0x37#8, 0x20#8, 0x06#8] { small with pc := 0x000010#24, sw := 0x000001#24 }).map
    (fun t => [t.pc, t.sw]) = some [0x000019#24, 0x000001#24] := by decide

/-- V-BR-3. -/
theorem test_jgt_not_taken : (go [0x37#8, 0x20#8, 0x06#8] { small with pc := 0x000010#24 }).map
    (fun t => [t.pc]) = some [0x000013#24] := by decide

/-- V-BR-4. -/
theorem test_jlt_taken : (go [0x3B#8, 0x20#8, 0x06#8] { small with pc := 0x000010#24, sw := 0xFFFFFF#24 }).map
    (fun t => [t.pc]) = some [0x000019#24] := by decide

/-- V-BR-4. -/
theorem test_jlt_not_taken : (go [0x3B#8, 0x20#8, 0x06#8] { small with pc := 0x000010#24, sw := 0x000001#24 }).map
    (fun t => [t.pc]) = some [0x000013#24] := by decide

/-- V-CT-2. -/
theorem test_jsub_format4 : (go [0x4B#8, 0x10#8, 0x00#8, 0x20#8] { small with pc := 0x000010#24 }).map
    (fun t => [t.regL, t.pc]) = some [0x000014#24, 0x000020#24] := by decide

/-- V-CT-11. -/
theorem test_rsub_format4 : (go [0x4E#8, 0x1F#8, 0xFF#8, 0xFF#8] { small with regL := 0xFFFFFF#24 }).map
    (fun t => [t.pc, t.regL]) = some [0xFFFFFF#24, 0xFFFFFF#24] := by decide

/-- V-RR-3. -/
theorem test_addr : (go [0x93#8, 0x01#8] { small with regA := 0x000002#24, regX := 0x000003#24 }).map
    (fun t => [t.regX, t.regA, t.pc]) = some [0x000005#24, 0x000002#24, 0x000002#24] := by decide

/-- V-RR-6. -/
theorem test_subr_order : (go [0x94#8, 0x40#8] { small with regS := 0x000003#24, regA := 0x000005#24 }).map
    (fun t => [t.regA, t.regS, t.pc]) = some [0x000002#24, 0x000003#24, 0x000002#24] := by decide

/-- V-RR-10. -/
theorem test_mulr_same : (go [0x98#8, 0x22#8] { small with regL := 0xFFFFFD#24 }).map
    (fun t => [t.regL, t.pc]) = some [0x000009#24, 0x000002#24] := by decide

/-- V-RR-12. -/
theorem test_divr_overflow : (go [0x9C#8, 0x40#8] { small with regS := 0xFFFFFF#24, regA := 0x800000#24 }).map
    (fun t => [t.regA, t.pc]) = some [0x800000#24, 0x000002#24] := by decide

/-- V-RR-13. -/
theorem test_divr_by_zero : goFault [0x9C#8, 0x10#8] { small with regA := 0x000005#24 } =
    some .arithmeticError := by decide

/-- V-RR-18. -/
theorem test_compr : (go [0xA0#8, 0x05#8] { small with regA := 0x000003#24, regT := 0x00000A#24 }).map
    (fun t => [t.sw, t.pc]) = some [0xFFFFFF#24, 0x000002#24] := by decide

/-- V-RR-22. -/
theorem test_compr_bad_code : (go [0xA0#8, 0x08#8] { small with sw := 0x000001#24 }).map
    (fun t => [t.sw, t.pc]) = some [0x000001#24, 0x000002#24] := by decide

/-- V-RR-28. -/
theorem test_rmo : (go [0xAC#8, 0x45#8] { small with regS := 0xFEDCBA#24, regT := 0x000001#24 }).map
    (fun t => [t.regT, t.regS, t.pc]) = some [0xFEDCBA#24, 0xFEDCBA#24, 0x000002#24] := by decide

/-- V-RR-32. -/
theorem test_shiftl_sixteen : (go [0xA4#8, 0x0F#8] { small with regA := 0x123456#24 }).map
    (fun t => [t.regA, t.pc]) = some [0x561234#24, 0x000002#24] := by decide

/-- V-RR-31. -/
theorem test_shiftl_one : (go [0xA4#8, 0x00#8] { small with regA := 0x800001#24 }).map
    (fun t => [t.regA, t.pc]) = some [0x000003#24, 0x000002#24] := by decide

/-- V-RR-36. -/
theorem test_shiftr_one : (go [0xA8#8, 0x00#8] { small with regA := 0x800000#24 }).map
    (fun t => [t.regA, t.pc]) = some [0xC00000#24, 0x000002#24] := by decide

/-- V-RR-39. -/
theorem test_shiftr_sixteen : (go [0xA8#8, 0x0F#8] { small with regA := 0x7FFFFF#24 }).map
    (fun t => [t.regA, t.pc]) = some [0x00007F#24, 0x000002#24] := by decide

/-- V-RR-23. -/
theorem test_clear : (go [0xB4#8, 0x0F#8] { small with regA := 0xABCDEF#24 }).map
    (fun t => [t.regA, t.pc]) = some [0x000000#24, 0x000002#24] := by decide

/-- V-RR-26. -/
theorem test_clear_bad_code : (go [0xB4#8, 0x80#8] { small with regA := 0xABCDEF#24 }).map
    (fun t => [t.regA, t.pc]) = some [0xABCDEF#24, 0x000002#24] := by decide

/-- V-F-12. -/
theorem test_divr_bad_code : (go [0x9C#8, 0x60#8] { small with regA := 0x000005#24 }).map
    (fun t => [t.regA, t.pc]) = some [0x000005#24, 0x000002#24] := by decide

/-- V-F-14, on three of the 27 opcodes: formats 1, 2 and 3. -/
theorem test_unsupported :
    goFault [0xC4#8] small = some (.unsupportedOpcode 0xC4#8) ∧
    goFault [0xB8#8, 0#8] small = some (.unsupportedOpcode 0xB8#8) ∧
    goFault [0x58#8, 0#8, 0#8] small = some (.unsupportedOpcode 0x58#8) := by decide

/-- V-F-1, V-F-3, V-F-5, V-F-7, V-F-9, V-F-10: the first byte that does not exist. -/
theorem test_fetch_bounds :
    goFault [] { small with pc := 0x300#24 } = some (.addressError 0x300) ∧
    goFault [0x00#8] { small with pc := 0x2FF#24 } = some (.addressError 0x300) ∧
    goFault [0x01#8, 0x10#8, 0x00#8] { small with pc := 0x2FD#24 } = some (.addressError 0x300) ∧
    goFault [0x58#8, 0x00#8] { small with pc := 0x2FE#24 } = some (.addressError 0x300) ∧
    goFault [0x90#8] { small with pc := 0x2FF#24 } = some (.addressError 0x300) ∧
    goFault [] { small with pc := 0xFFFFFF#24 } = some (.addressError 0xFFFFFF) := by decide

/-- V-F-2, V-F-4, V-F-6, V-F-8: instructions that end at the last byte of memory. -/
theorem test_fetch_at_the_end :
    goFault [0xC4#8] { small with pc := 0x2FF#24 } = some (.unsupportedOpcode 0xC4#8) ∧
    (go [0xB4#8, 0x00#8] { small with pc := 0x2FE#24 }).map (·.pc) = some 0x300#24 ∧
    goFault [0x58#8, 0x00#8, 0x00#8] { small with pc := 0x2FD#24 } = some (.unsupportedOpcode 0x58#8) ∧
    goFault [0xB8#8, 0x00#8] { small with pc := 0x2FE#24 } = some (.unsupportedOpcode 0xB8#8) := by decide

/-- An instruction of the opcode table placed where the reset state fetches runs as the first instruction (`ADDR A,X` and
`+LDB #0x200`). -/
theorem test_withFetchWord :
    (nextOf (step (State.reset.withFetchWord 16 0x9001))).map (·.pc) = some 2#24 ∧
    (nextOf (step (State.reset.withFetchWord 32 0x69100200))).map (fun t => (t.regB, t.pc)) =
      some (0x200#24, 4#24) := by decide

/-! ## The host -/

/-- V-H-1, V-H-2, V-H-8, and the largest permitted size. -/
theorem test_construct :
    faultOf (construct 0) = some (.configurationError 0) ∧
    faultOf (construct (-3)) = some (.configurationError (-3)) ∧
    (nextOf (construct 1)).map (·.size) = some 3 ∧
    (nextOf (construct 5592405)).map (·.size) = some 16777215 ∧
    nextOf (construct 5592406) = none ∧ faultOf (construct 5592406) = none := by decide

/-- S1a to S1d: words written and read by the host. -/
theorem test_host_words :
    ((small.transact (.loadWord 0x2FD 0xABCDEF)).2.transact (.readWord 0x2FD)).1 = .value 0xABCDEF ∧
    ((small.transact (.loadWord 0x10 0x1ABCDEF)).2.transact (.readWord 0x10)).1 = .value 0xABCDEF ∧
    ((small.transact (.loadWord 0x10 (-1))).2.transact (.readWord 0x10)).1 = .value 0xFFFFFF ∧
    small.transact (.loadWord 0x2FE 1) = (.fault (.addressError 0x2FE), small) := by decide

/-- S2, S2a, S2b: the two views of a register. -/
theorem test_host_views :
    (State.transact { small with regA := 0xFFFFFF#24 } (.readSigned (.general .a))).1 = .value (-1) ∧
    (State.transact { small with regA := 0x800000#24 } (.readSigned (.general .a))).1 = .value (-8388608) ∧
    (State.transact { small with regA := 0x800000#24 } (.readUnsigned (.general .a))).1 = .value 8388608 ∧
    (State.transact { small with regA := 0x7FFFFF#24 } (.readSigned (.general .a))).1 = .value 8388607 := by
  decide

/-- V-H-5, V-H-6: reset without and with the clearing of memory. -/
theorem test_host_reset :
    (State.transact { small with regA := 8#24, pc := 3#24, mem := [(0x102, 8#8)] } (.reset false)).2 =
      { small with mem := [(0x102, 8#8)] } ∧
    (State.transact { small with regA := 8#24, pc := 3#24, mem := [(0x102, 8#8)] } (.reset true)).2 = small := by
  decide

/-! ## Witnesses: for each statement with hypotheses, concrete values that meet them, clause by clause -/

/-- ConstructBuildsZeroedMachineOrFails: the clauses' ranges meet nowhere; both ends of each. -/
theorem test_witness_ConstructBuildsZeroedMachineOrFails :
    ((0 : Int) ≤ 0) ∧ ((1 : Int) ≤ 1 ∧ (1 : Int) ≤ 5592405) ∧ ((1 : Int) ≤ 5592405 ∧ (5592405 : Int) ≤ 5592405) ∧
    (5592405 : Int) < 5592406 := by decide

/-- RegisterLookupByCodeAndByName: the last register code, the first that is none, a name and no name. -/
theorem test_witness_RegisterLookupByCodeAndByName :
    (5#4 : Nibble).toNat ≤ 5 ∧ 6 ≤ (6#4 : Nibble).toNat ∧ RegId.ofName "SW" = some .sw ∧
    RegId.ofName "F" = none := by decide

/-- ByteReadChecksBounds: -1 and `SIZE`; 0 and `SIZE - 1`. -/
theorem test_witness_ByteReadChecksBounds :
    ((-1 : Int) < 0) ∧ (small.size : Int) ≤ 0x300 ∧ ((0 : Int) ≤ 0 ∧ (0 : Int) < small.size) ∧
    ((0 : Int) ≤ 0x2FF ∧ (0x2FF : Int) < small.size) := by decide

/-- ByteWriteChangesOneByte: `SIZE` and `SIZE - 1`, on canonical memory. -/
theorem test_witness_ByteWriteChangesOneByte :
    Memory.wf (put 0x100 0x1#24 small).mem ∧ (put 0x100 0x1#24 small).size ≤ 0x300 ∧
    0x2FF < (put 0x100 0x1#24 small).size := by decide

/-- WordReadIsBigEndianAndChecksSpan: -1 and `SIZE - 2`; 0 and `SIZE - 3`; a permitted size. -/
theorem test_witness_WordReadIsBigEndianAndChecksSpan :
    ((-1 : Int) < 0) ∧ (small.size : Int) ≤ 0x2FE + 2 ∧ ((0 : Int) ≤ 0 ∧ (0 : Int) + 2 < small.size) ∧
    ((0 : Int) ≤ 0x2FD ∧ (0x2FD : Int) + 2 < small.size) ∧ small.memWords ≤ 5592405 := by decide

/-- WordWriteIsAtomicMaskedAndReadsBack: the same bounds, on canonical memory. -/
theorem test_witness_WordWriteIsAtomicMaskedAndReadsBack :
    Memory.wf (put 0x100 0x1#24 small).mem ∧ ((-1 : Int) < 0) ∧
    ((put 0x100 0x1#24 small).size : Int) ≤ 0x2FE + 2 ∧
    ((0 : Int) ≤ 0x2FD ∧ (0x2FD : Int) + 2 < (put 0x100 0x1#24 small).size) := by decide

/-- DecodeOfEncodeIsIdentity: both ends of the displacement's range. -/
theorem test_witness_DecodeOfEncodeIsIdentity :
    WellFormed (.lda (.format3 simple (-2048))) = true ∧ WellFormed (.stt (.format3 indirect 2047)) = true ∧
    WellFormed (.add (.format4 simple 0xFFFFF#20)) = true := by decide

/-- EncodeOfDecodeUpToIgnoredBits: bytes of format 2 with an ignored bit set, and of format 3, both with bytes left over. -/
theorem test_witness_EncodeOfDecodeUpToIgnoredBits :
    decode [0xB7#8, 0x5A#8, 0x11#8] = .ok (.clear 5#4 10#4, [0x11#8]) ∧
    decode [0x03#8, 0x01#8, 0x00#8, 0x22#8] = .ok (.lda (.format3 simple 0x100), [0x22#8]) ∧
    (Instr.lda (.format3 simple 0x100)).shape = .memory (.format3 simple 0x100) := by decide

/-- OpcodeMapCoversTheSixtyFourOpcodes: an opcode with a row of each format, and a value with none. -/
theorem test_witness_OpcodeMapCoversTheSixtyFourOpcodes :
    opcodeRow 0xC0#8 = some (.format1 .unsupportedC0) ∧ opcodeRow 0xB4#8 = some (.format2 .clear) ∧
    opcodeRow 0xFC#8 = some (.memory .unsupportedFC) ∧ (opcodeRow 0x01#8).isSome = false :=
  ⟨rfl, rfl, rfl, rfl⟩

/-- StepRunsDecodedInstruction: LDA at the reset `PC`. -/
theorem test_witness_StepRunsDecodedInstruction :
    decode (load [0x03#8, 0x01#8, 0x00#8] small).fetchWindow =
      .ok (.lda (.format3 simple 0x100), [0#8]) := by decide

/-- StepRunsInstructionEncodedInMemory: CLEAR with both ignored bits set, in the last two bytes of memory. -/
theorem test_witness_StepRunsInstructionEncodedInMemory :
    decode [0xB7#8, 0x00#8] = .ok (.clear 0#4 0#4, []) ∧
    (0x2FE#24).toNat + [0xB7#8, 0x00#8].length ≤ small.size ∧
    Memory.byteAt (load [0xB7#8, 0x00#8] { small with pc := 0x2FE#24 }).mem 0x2FE = 0xB7#8 ∧
    Memory.byteAt (load [0xB7#8, 0x00#8] { small with pc := 0x2FE#24 }).mem 0x2FF = 0#8 := by decide

/-- FetchFailsAtFirstMissingByte: `PC = SIZE`; the fourth byte of a format-4 instruction missing; an instruction that ends at
the last byte of memory. -/
theorem test_witness_FetchFailsAtFirstMissingByte :
    small.size ≤ (State.pc { small with pc := 0x300#24 }).toNat ∧
    (load [0x01#8, 0x10#8, 0x00#8] { small with pc := 0x2FD#24 }).fetch = .error (.addressError 0x300) ∧
    (load [0x58#8, 0x00#8, 0x00#8] { small with pc := 0x2FD#24 }).fetch =
      .ok (.unsupported58 (.format3 ⟨false, false, false, false, false⟩ 0)) := by
  decide

/-- Format3EffectiveAddress: direct, not indexed, at both ends and on both sides of zero (V-EA-1, V-EA-2, V-EA-3). -/
theorem test_witness_Format3EffectiveAddress :
    simple.p = false ∧ simple.b = false ∧ simple.x = false ∧
    effectiveAddress (.format3 simple (-2048)) small = 0x0FF800#24 ∧
    effectiveAddress (.format3 simple (-1)) small = 0x0FFFFF#24 ∧
    effectiveAddress (.format3 simple 0) small = 0#24 ∧
    effectiveAddress (.format3 simple 2047) small = 0x0007FF#24 := by decide

/-- OperandTableRows: the three modes; a pointer that can be read and one that cannot. -/
theorem test_witness_OperandTableRows :
    (immediate.n = false ∧ immediate.i = true) ∧ simple.n = simple.i ∧
    (indirect.n = true ∧ indirect.i = false) ∧
    (put 0x100 0x110#24 small).readWord (effectiveAddress (.format3 indirect 0x100) small).toNat = .ok 0x110#24 ∧
    small.size ≤ (effectiveAddress (.format3 indirect 0x2FE) small).toNat + 2 := by decide

/-- ByteOperandRows: the modes are those of OperandTableRows; here the byte at the last address is read, and a pointer. -/
theorem test_witness_ByteOperandRows :
    (immediate.n = false ∧ immediate.i = true) ∧ simple.n = simple.i ∧
    (indirect.n = true ∧ indirect.i = false) ∧
    operandByte (.format3 simple 0x2FF) small = .ok 0#8 ∧
    (put 0x100 0x2FF#24 small).readWord (effectiveAddress (.format3 indirect 0x100) small).toNat = .ok 0x2FF#24 ∧
    small.size ≤ (effectiveAddress (.format3 indirect 0x2FE) small).toNat + 2 := by decide

/-- DegenerateModeIsSimpleMode: the row of DIV. -/
theorem test_witness_DegenerateModeIsSimpleMode : opcodeRow 0x24#8 = some (.memory .div) := rfl

/-- WordLoadsReplaceTheRegister, AddWrapsAtTwentyFourBits, SubIsAccumulatorMinusOperand, MulKeepsLowBitsOfProduct,
AndOrAreBitwise, CompareWritesOnlyTheCarrier, TixIncrementsAndCompares: a readable operand in each mode. -/
theorem test_witness_readable_operand :
    operandWord (.format3 simple 0x100) (put 0x100 0xABCDEF#24 small) = .ok 0xABCDEF#24 ∧
    operandWord (.format4 immediate 0x100#20) small = .ok 0x100#24 ∧
    operandWord (.format3 indirect 0x100) (put 0x100 0x110#24 (put 0x110 0x7#24 small)) = .ok 7#24 := by
  decide

/-- UnreadableOperandFaultsBeforeAnyEffect and the fault clauses of AddWrapsAtTwentyFourBits, MulKeepsLowBitsOfProduct and
AndOrAreBitwise. -/
theorem test_witness_unreadable_operand :
    operandWord (.format3 simple 0x2FE) small = .error (.addressError 0x2FE) ∧
    operandWord (.format3 indirect 0x100) (put 0x100 0xFFFFFF#24 small) = .error (.addressError 0xFFFFFF) := by
  decide

/-- CharacterLoadKeepsUpperBits: a readable byte operand and an unreadable one. -/
theorem test_witness_CharacterLoadKeepsUpperBits :
    operandByte (.format3 immediate 0x141) small = .ok 0x41#8 ∧
    operandByte (.format3 simple 0x300) small = .error (.addressError 0x300) := by decide

/-- WordStoresWriteThreeBytes: the last whole word. -/
theorem test_witness_WordStoresWriteThreeBytes :
    Memory.wf small.mem ∧ (targetAddress (.format3 simple 0x2FD) small).toNat + 2 < small.size := by decide

/-- CharacterStoreWritesOneByte: the last byte. -/
theorem test_witness_CharacterStoreWritesOneByte :
    Memory.wf small.mem ∧ (targetAddress (.format3 simple 0x2FF) small).toNat < small.size := by decide

/-- StoresOutsideMemoryFault: the first address outside, for a word and for a byte. -/
theorem test_witness_StoresOutsideMemoryFault :
    small.size ≤ (targetAddress (.format3 simple 0x2FE) small).toNat + 2 ∧
    small.size ≤ (targetAddress (.format3 simple 0x300) small).toNat := by decide

/-- DivTruncatesTowardZero: a zero operand, an ordinary one, and the overflow case. -/
theorem test_witness_DivTruncatesTowardZero :
    operandWord (.format3 immediate 0) small = .ok 0#24 ∧
    (operandWord (.format3 immediate 2) small = .ok 2#24 ∧ (2#24 : Word) ≠ 0#24 ∧
      ¬(small.regA = 0x800000#24 ∧ (2#24 : Word) = 0xFFFFFF#24)) ∧
    (operandWord (.format3 simple 0x100) (put 0x100 0xFFFFFF#24 { small with regA := 0x800000#24 }) =
        .ok 0xFFFFFF#24 ∧
      (put 0x100 0xFFFFFF#24 { small with regA := 0x800000#24 }).regA = 0x800000#24) := by decide

/-- ConditionCodeLaw: COMP, TIX and COMPR complete. -/
theorem test_witness_ConditionCodeLaw :
    operandWord (.format3 immediate 5) small = .ok 5#24 ∧
    (∃ t, exec (.comp (.format3 immediate 5)) small = .next t) ∧
    (∃ t, exec (.tix (.format3 immediate 5)) small = .next t) ∧
    regOfCode 0#4 = some .a ∧ regOfCode 5#4 = some .t ∧ ∃ t, exec (.compr 0#4 5#4) small = .next t :=
  ⟨rfl, ⟨_, rfl⟩, ⟨_, rfl⟩, rfl, rfl, ⟨_, rfl⟩⟩

/-- JumpToItselfEndsTheRun: V-CT-8. -/
theorem test_witness_JumpToItselfEndsTheRun :
    (load [0x3F#8, 0x2F#8, 0xFD#8] small).fetch =
      .ok (.j (.format3 ⟨true, true, false, false, true⟩ (-3))) := by decide

/-- RegisterArithmeticAndMove, RegisterCompare, ShiftsAndClear: two registers, and one register twice. -/
theorem test_witness_register_codes :
    (regOfCode 0#4 = some .a ∧ regOfCode 5#4 = some .t) ∧ (regOfCode 3#4 = some .b ∧ regOfCode 3#4 = some .b) := by
  decide

/-- RegisterDivision: a divisor that is zero and one that is not. -/
theorem test_witness_RegisterDivision :
    regOfCode 1#4 = some .x ∧ regOfCode 0#4 = some .a ∧ small.reg .x = 0#24 ∧
    State.reg { small with regX := 1#24 } .x ≠ 0#24 := by decide

/-- BadRegisterCodesAreNoOps: the first bad code, in either place. -/
theorem test_witness_BadRegisterCodesAreNoOps :
    6 ≤ (6#4 : Nibble).toNat ∧ (6 ≤ (0#4 : Nibble).toNat ∨ 6 ≤ (15#4 : Nibble).toNat) := by decide

/-- UnsupportedOpcodesFaultAfterFetch: an instruction of the 27, and a step that ends so. -/
theorem test_witness_UnsupportedOpcodesFaultAfterFetch :
    (Instr.unsupportedFC (.format4 simple 0#20)).opcode ∈ opcodesWithoutHandler ∧
    faultOf (step (load [0xC4#8] small)) = some (.unsupportedOpcode 0xC4#8) := by decide

/-- ArithmeticErrorExactlyOnZeroDivisor: both of its cases. -/
theorem test_witness_ArithmeticErrorExactlyOnZeroDivisor :
    faultOf (exec (.div (.format3 immediate 0)) small) = some .arithmeticError ∧
    faultOf (exec (.divr 1#4 0#4) small) = some .arithmeticError := by decide

/-- StepFaultsAreOneOfThreeKinds and FailedStepLeavesMachineUnchanged: each kind of fault, and a completing step. -/
theorem test_witness_step_faults :
    faultOf (step { small with pc := 0x300#24 }) = some (.addressError 0x300) ∧
    faultOf (step (load [0xC4#8] small)) = some (.unsupportedOpcode 0xC4#8) ∧
    faultOf (step (load [0x25#8] small)) = some .arithmeticError ∧ (nextOf (step small)).isSome = true := by
  decide

/-- AddressErrorsComeOnlyFromMemoryAccesses: a load and a store. -/
theorem test_witness_AddressErrorsComeOnlyFromMemoryAccesses :
    faultOf (exec (.lda (.format3 simple 0x2FE)) small) = some (.addressError 0x2FE) ∧
    faultOf (exec (.sta (.format3 simple 0x2FE)) small) = some (.addressError 0x2FE) := by decide

/-- ProgramCounterAfterEveryInstruction, RegistersChangeOnlyWhereWritten, OnlyComparisonsChangeConditionCode: LDX completes,
writes `X` and no other register, and compares nothing. -/
theorem test_witness_frames :
    (∃ t, exec (.ldx (.format3 immediate 5)) small = .next t) ∧
    writtenReg (.ldx (.format3 immediate 5)) ≠ some .a ∧
    isComparison (.ldx (.format3 immediate 5)) = false :=
  ⟨⟨_, rfl⟩, by decide, rfl⟩

/-- MemoryChangesOnlyWhereStored: an instruction that stores nothing, and a store of three bytes at 0x100 with the addresses
just outside them. -/
theorem test_witness_MemoryChangesOnlyWhereStored :
    Memory.wf small.mem ∧
    ((∃ t, exec (.ldx (.format3 immediate 5)) small = .next t) ∧
      storedBytes (.ldx (.format3 immediate 5)) small = none) ∧
    ((∃ t, exec (.sta (.format3 simple 0x100)) small = .next t) ∧
      storedBytes (.sta (.format3 simple 0x100)) small = some (0x100, 3)) ∧
    0xFF < 0x100 ∧ 0x100 + 3 ≤ 0x103 :=
  ⟨by decide, ⟨⟨_, rfl⟩, rfl⟩, ⟨⟨_, rfl⟩, by decide⟩, by decide, by decide⟩

/-- OnlyConditionalBranchesReadConditionCode: COMPR with a bad code completes and writes no condition code; DIV fails. -/
theorem test_witness_OnlyConditionalBranchesReadConditionCode :
    isConditionalBranch (.compr 0#4 8#4) = false ∧ (∃ t, exec (.compr 0#4 8#4) small = .next t) ∧
    isConditionalBranch (.div (.format3 immediate 0)) = false ∧
    exec (.div (.format3 immediate 0)) small = .fault .arithmeticError :=
  ⟨rfl, ⟨_, rfl⟩, rfl, rfl⟩

/-- StepKeepsInvariant: a state with non-empty memory that meets the invariant, and whose step completes. -/
theorem test_witness_StepKeepsInvariant :
    State.Inv { small with mem := [(0, 0x18#8), (0x2FF, 0x7#8)], sw := 0xFFFFFF#24 } ∧
    (nextOf (step { small with mem := [(0, 0x18#8), (0x2FF, 0x7#8)], sw := 0xFFFFFF#24 })).isSome = true := by
  refine ⟨⟨by decide, by decide, by decide, by decide, by decide⟩, by decide⟩

/-- HostTransactionKeepsInvariant: a load that writes memory and a step that completes, from a state that meets the
invariant. -/
theorem test_witness_HostTransactionKeepsInvariant :
    small.Inv ∧ (small.transact (.loadWord 0 0x010005)).1 = .done ∧ (small.transact .step).1 = .done := by
  refine ⟨⟨by decide, by decide, by decide, by decide, by decide⟩, by decide⟩

/-- EveryHostRunKeepsInvariant: the smallest machine. -/
theorem test_witness_EveryHostRunKeepsInvariant : ∃ t, construct 1 = .next t := ⟨_, rfl⟩

end Sys2Proof.Tests
end

section
/-! Proofs about the register file (10_state.md R7, R11): the two views of a stored pattern, and the lookups by code and by
name. -/

namespace Sys2Proof.Machine

/-! ## The two views of a stored pattern -/

/-- The unsigned view of a masked integer is the integer modulo 2^24 (10_state.md R7). -/
theorem u24_mask24 (v : Int) : u24 (mask24 v) = v % 2 ^ 24 := by
  unfold u24 mask24
  rw [BitVec.toNat_ofInt]
  exact Int.toNat_of_nonneg (Int.emod_nonneg v (by decide))

theorem u24_nonneg (w : Word) : 0 ≤ u24 w := Int.natCast_nonneg _

theorem u24_le (w : Word) : u24 w ≤ 2 ^ 24 - 1 := by
  have hw : w.toNat < 2 ^ 24 := w.isLt
  unfold u24
  omega

/-- The signed view is the two's complement reading of the unsigned one (10_state.md R7). -/
theorem s24_eq_ite_u24 (w : Word) : s24 w = if u24 w < 2 ^ 23 then u24 w else u24 w - 2 ^ 24 := by
  unfold s24 u24
  rw [BitVec.toInt_eq_toNat_cond]
  split <;> split <;> omega

/-! ## What the host reads from a register -/

@[simp] theorem State.readReg_general (s : State) (r : GReg) : s.readReg (.general r) = s.reg r := rfl

@[simp] theorem State.readReg_pc (s : State) : s.readReg .pc = s.pc := rfl

@[simp] theorem State.readReg_sw (s : State) : s.readReg .sw = s.sw := rfl

/-- Settles O4: each register reads back the pattern written to it, so only the views of a pattern matter. -/
theorem registersStoreMaskedAndReadInTwoViews : Obligations.RegistersStoreMaskedAndReadInTwoViews := by
  refine ⟨fun s v r => ?written, fun s q => ?views, fun s r => ?allOnes⟩
  case written =>
    simp only [State.readReg_general, State.reg_setReg_self, State.readReg_pc, State.pc_setPc, State.readReg_sw,
      State.sw_setSw, u24_mask24, and_self]
  case views =>
    exact ⟨u24_nonneg _, u24_le _, s24_eq_ite_u24 _⟩
  case allOnes =>
    rw [State.reg_setReg_self]
    decide

/-! ## The register lookups -/

/-- Every code up to 5 names the general register that has this code (10_state.md R11). -/
theorem exists_regOfCode_of_le {c : Nibble} (hc : c.toNat ≤ 5) :
    ∃ r, regOfCode c = some r ∧ RegId.code (.general r) = (c.toNat : Int) := by
  have hne : regOfCode c ≠ none := fun h => by
    have := (regOfCode_eq_none_iff c).mp h
    omega
  obtain ⟨r, hr⟩ := Option.ne_none_iff_exists'.mp hne
  exact ⟨r, hr, (regOfCode_eq_some_iff c r).mp hr⟩

/-- The name the host gives for a register (10_state.md R6, R11). -/
def RegId.name : RegId → String
  | .general .a => "A"
  | .general .x => "X"
  | .general .l => "L"
  | .general .b => "B"
  | .general .s => "S"
  | .general .t => "T"
  | .pc => "PC"
  | .sw => "SW"

@[simp] theorem RegId.ofName_name (q : RegId) : RegId.ofName q.name = some q := by
  cases q with
  | general r => cases r <;> rfl
  | pc => rfl
  | sw => rfl

theorem State.readNamed_of_ofName_eq_some (s : State) {name : String} {q : RegId} (h : RegId.ofName name = some q) :
    s.readNamed name = .ok (s.readReg q) := by
  simp only [State.readNamed, h]

theorem State.readNamed_of_ofName_eq_none (s : State) {name : String} (h : RegId.ofName name = none) :
    s.readNamed name = .error (.unknownRegister name) := by
  simp only [State.readNamed, h]

/-- Settles O5: by the two laws of the code lookup, and the name of each register found again by the name lookup. -/
theorem registerLookupByCodeAndByName : Obligations.RegisterLookupByCodeAndByName :=
  ⟨fun c => ⟨exists_regOfCode_of_le, (regOfCode_eq_none_iff c).mpr⟩,
    fun q => ⟨q.name, RegId.ofName_name q⟩,
    fun s _ => ⟨fun _ => s.readNamed_of_ofName_eq_some, s.readNamed_of_ofName_eq_none⟩⟩

end Sys2Proof.Machine
end

section
/-! Proofs about memory as the host reaches it (20_memory.md R17, R19, R20): where an access fails, the byte order of a word,
and what a word write changes. -/

namespace Sys2Proof.Machine

/-! ## The host's addresses -/

/-- A host address is a place in memory or, when negative, an `AddressError` (20_memory.md R17 to R20). -/
theorem hostAddress_cases (addr : Int) :
    (∃ a : Nat, addr = a ∧ hostAddress addr = .ok a) ∨
    (addr < 0 ∧ hostAddress addr = .error (.addressError addr)) := by
  cases addr with
  | ofNat a => exact .inl ⟨a, rfl, rfl⟩
  | negSucc k => exact .inr ⟨Int.negSucc_lt_zero k, rfl⟩

/-! ## Host reads -/

@[simp] theorem State.hostReadWord_natCast (s : State) (a : Nat) : s.hostReadWord a = s.readWord a := rfl

/-- All a host's byte read can answer (20_memory.md R17). -/
theorem State.hostReadByte_cases (s : State) (addr : Int) :
    (∃ a : Nat, addr = a ∧ a < s.size ∧ s.hostReadByte addr = .ok (Memory.byteAt s.mem a)) ∨
    ((addr < 0 ∨ (s.size : Int) ≤ addr) ∧ s.hostReadByte addr = .error (.addressError addr)) := by
  rcases hostAddress_cases addr with ⟨a, rfl, hok⟩ | ⟨hneg, herr⟩
  · rcases s.readByte_cases a with ⟨hin, hr⟩ | ⟨hout, hr⟩
    · exact .inl ⟨a, rfl, hin, by simp only [State.hostReadByte, hok, hr]⟩
    · exact .inr ⟨.inr (Int.ofNat_le.mpr hout), by simp only [State.hostReadByte, hok, hr]⟩
  · exact .inr ⟨.inl hneg, by simp only [State.hostReadByte, herr]⟩

/-- All a host's word read can answer (20_memory.md R19). -/
theorem State.hostReadWord_cases (s : State) (addr : Int) :
    (∃ a : Nat, addr = a ∧ a + 2 < s.size ∧ s.hostReadWord addr = .ok (joinBytes (Memory.byteAt s.mem a)
      (Memory.byteAt s.mem (a + 1)) (Memory.byteAt s.mem (a + 2)))) ∨
    ((addr < 0 ∨ (s.size : Int) ≤ addr + 2) ∧ s.hostReadWord addr = .error (.addressError addr)) := by
  rcases hostAddress_cases addr with ⟨a, rfl, hok⟩ | ⟨hneg, herr⟩
  · rcases s.readWord_cases a with ⟨hin, hr⟩ | ⟨hout, hr⟩
    · exact .inl ⟨a, rfl, hin, by simp only [State.hostReadWord, hok, hr]⟩
    · exact .inr ⟨.inr (Int.ofNat_le.mpr hout), by simp only [State.hostReadWord, hok, hr]⟩
  · exact .inr ⟨.inl hneg, by simp only [State.hostReadWord, herr]⟩

/-- A host's word read whose span leaves memory fails (20_memory.md R19). -/
theorem State.hostReadWord_of_outside (s : State) {addr : Int} (hout : addr < 0 ∨ (s.size : Int) ≤ addr + 2) :
    s.hostReadWord addr = .error (.addressError addr) := by
  rcases s.hostReadWord_cases addr with ⟨a, rfl, hin, -⟩ | ⟨-, hr⟩
  · omega
  · exact hr

/-- Every permitted memory ends below 2^24 (20_memory.md R16, decision D15). -/
theorem State.size_le_of_memWords_le {s : State} (h : s.memWords ≤ 5592405) : s.size ≤ 0xFFFFFF := by
  rw [State.size_eq]
  omega

/-- Settles O6: by the two outcomes of a host's byte read, whose ranges exclude each other. -/
theorem byteReadChecksBounds : Obligations.ByteReadChecksBounds := by
  intro s addr
  rcases s.hostReadByte_cases addr with ⟨a, rfl, hin, hr⟩ | ⟨hout, hr⟩
  · exact ⟨fun hout => by omega, fun _ _ => hr⟩
  · exact ⟨fun _ => hr, fun _ _ => by omega⟩

/-! ## A word and its three bytes -/

/-- The big-endian value of three bytes (20_memory.md R19, R22). -/
theorem toNat_joinBytes (b0 b1 b2 : Byte) :
    (joinBytes b0 b1 b2).toNat = b0.toNat * 2 ^ 16 + b1.toNat * 2 ^ 8 + b2.toNat := by
  unfold joinBytes
  rw [BitVec.toNat_append, ← Nat.shiftLeft_add_eq_or_of_lt b2.isLt, BitVec.toNat_append,
    ← Nat.shiftLeft_add_eq_or_of_lt b1.isLt, Nat.shiftLeft_eq, Nat.shiftLeft_eq]
  omega

theorem toNat_wordByte (w : Word) (k : Nat) :
    ((wordByte w k).toNat : Int) = u24 w / 2 ^ (8 * (2 - k)) % 256 := by
  unfold wordByte u24
  rw [BitVec.extractLsb'_toNat, Nat.shiftRight_eq_div_pow]
  push_cast
  rfl

/-- A byte of a masked integer is a byte of the integer: the mask only drops what stands above bit 23. -/
theorem toNat_wordByte_mask24 (v : Int) (k : Nat) :
    ((wordByte (mask24 v) k).toNat : Int) = v / 2 ^ (8 * (2 - k)) % 256 := by
  rw [toNat_wordByte, u24_mask24]
  obtain hk | hk | hk : 2 - k = 0 ∨ 2 - k = 1 ∨ 2 - k = 2 := by omega
  all_goals rw [hk]; omega

/-- Settles O8: by the two outcomes of a host's word read; no permitted size reaches past `0xFFFFFF`, so a span that starts
at `0xFFFFFE` leaves memory. -/
theorem wordReadIsBigEndianAndChecksSpan : Obligations.WordReadIsBigEndianAndChecksSpan := by
  refine fun s addr => ⟨s.hostReadWord_of_outside, fun h0 hin => ?inside,
    fun hwords => s.hostReadWord_of_outside (.inr ?span)⟩
  case inside =>
    rcases s.hostReadWord_cases addr with ⟨a, rfl, -, hr⟩ | ⟨hout, -⟩
    · exact ⟨_, hr, toNat_joinBytes _ _ _⟩
    · omega
  case span =>
    have := State.size_le_of_memWords_le hwords
    omega

/-! ## The host's word write -/

/-- A word write changes nothing but memory. -/
theorem State.eq_with_mem_of_writeWord {s t : State} {a : Nat} {v : Word} (h : s.writeWord a v = .ok t) :
    t = { s with mem := t.mem } := by
  rcases s.writeWord_cases a v with ⟨-, hw⟩ | ⟨-, hw⟩ <;> rw [hw] at h <;> cases h
  rfl

theorem State.byteAt_writeWord_of_outside {s t : State} {a b : Nat} {v : Word} (hwf : Memory.wf s.mem)
    (h : s.writeWord a v = .ok t) (hb : b < a ∨ a + 2 < b) : Memory.byteAt t.mem b = Memory.byteAt s.mem b := by
  rw [State.byteAt_writeWord hwf h, if_neg (by omega), if_neg (by omega), if_neg (by omega)]

/-- Byte `k` of the span of a written word is byte `k` of the word (20_memory.md R20). -/
theorem State.byteAt_writeWord_of_le {s t : State} {a k : Nat} {v : Word} (hwf : Memory.wf s.mem)
    (h : s.writeWord a v = .ok t) (hk : k ≤ 2) : Memory.byteAt t.mem (a + k) = wordByte v k := by
  rw [State.byteAt_writeWord hwf h]
  obtain rfl | rfl | rfl : k = 0 ∨ k = 1 ∨ k = 2 := by omega
  all_goals simp

/-- The bytes a masked integer is stored as (20_memory.md R20). -/
theorem State.toNat_byteAt_writeWord_mask24 {s t : State} {a k : Nat} {v : Int} (hwf : Memory.wf s.mem)
    (h : s.writeWord a (mask24 v) = .ok t) (hk : k ≤ 2) :
    ((Memory.byteAt t.mem (a + k)).toNat : Int) = v / 2 ^ (8 * (2 - k)) % 256 := by
  rw [State.byteAt_writeWord_of_le hwf h hk, toNat_wordByte_mask24]

/-- All a host's load can do: the word write at a place inside memory, or an error (20_memory.md R20, 70 R109). -/
theorem State.transact_loadWord_cases (s : State) (addr v : Int) :
    (∃ (a : Nat) (t : State), addr = a ∧ a + 2 < s.size ∧ s.writeWord a (mask24 v) = .ok t ∧
      s.transact (.loadWord addr v) = (.done, t)) ∨
    ((addr < 0 ∨ (s.size : Int) ≤ addr + 2) ∧
      s.transact (.loadWord addr v) = (.fault (.addressError addr), s)) := by
  rcases hostAddress_cases addr with ⟨a, rfl, hok⟩ | ⟨hneg, herr⟩
  · rcases s.writeWord_cases a (mask24 v) with ⟨hin, hw⟩ | ⟨hout, hw⟩
    · exact .inl ⟨a, _, rfl, hin, hw, by simp only [State.transact, State.loadWord, hok, hw]⟩
    · exact .inr ⟨.inr (Int.ofNat_le.mpr hout), by simp only [State.transact, State.loadWord, hok, hw]⟩
  · exact .inr ⟨.inl hneg, by simp only [State.transact, State.loadWord, herr]⟩

/-- Settles O9: a load either fails before it writes or is one word write, whose bytes, frame and read-back are known. -/
theorem wordWriteIsAtomicMaskedAndReadsBack : Obligations.WordWriteIsAtomicMaskedAndReadsBack := by
  intro s addr v hwf
  rcases s.transact_loadWord_cases addr v with ⟨a, t, rfl, hin, hw, ht⟩ | ⟨hout, hf⟩
  · have byteOf {k : Nat} (hk : k ≤ 2) := State.toNat_byteAt_writeWord_mask24 hwf hw hk
    refine ⟨fun hout => by omega, fun _ _ => ⟨t, ht, State.eq_with_mem_of_writeWord hw, byteOf (Nat.zero_le 2),
      byteOf (Nat.le_succ 1), ?lastByte, fun b => State.byteAt_writeWord_of_outside hwf hw,
      mask24 v, (t.hostReadWord_natCast a).trans (State.readWord_of_writeWord hwf hw), u24_mask24 v⟩⟩
    case lastByte => simpa using byteOf (Nat.le_refl 2)
  · exact ⟨fun _ => hf, fun _ _ => by omega⟩

end Sys2Proof.Machine
end

section
/-! Proofs about the execution cycle (40_execution_cycle.md R45 to R48): the effective address of each format, and what the
host's step transaction answers. -/

namespace Sys2Proof.Machine

/-! ## The effective address -/

/-- Indexing adds `X` to the reduced base address: the reduction of the sum is the sum modulo 2^24 (40_execution_cycle.md
R48). -/
theorem effectiveAddress_eq_add (m : MemRef) (s : State) :
    effectiveAddress m s = mask24 (baseAddress m s) + (if m.flags.x then s.regX else 0#24) := by
  unfold effectiveAddress
  rw [mask24_add]
  split
  · rw [mask24_u24]
  · rfl

theorem mask24_u24_add (w : Word) (v : Int) : mask24 (u24 w + v) = w + mask24 v := by
  rw [mask24_add, mask24_u24]

/-- Format 3 tests `p` before `b` (40_execution_cycle.md R46). -/
theorem mask24_baseAddress_format3 (fl : AddrFlags) (disp : Int) (s : State) :
    mask24 (baseAddress (.format3 fl disp) s) =
      if fl.p then s.pc + 3#24 + BitVec.ofInt 24 disp
      else if fl.b then s.regB + BitVec.ofInt 24 disp
      else (BitVec.ofInt 20 disp).setWidth 24 := by
  simp only [baseAddress]
  split_ifs with hp hb
  · rw [mask24_u24_add, nextPC_eq_add]; rfl
  · exact mask24_u24_add _ _
  · exact mask24_zext20 disp

/-- Format 4 tests `b` before `p` (40_execution_cycle.md R47). -/
theorem mask24_baseAddress_format4 (fl : AddrFlags) (addr : BitVec 20) (s : State) :
    mask24 (baseAddress (.format4 fl addr) s) =
      if fl.b then s.regB + addr.setWidth 24
      else if fl.p then s.pc + 4#24 + addr.setWidth 24
      else addr.setWidth 24 := by
  simp only [baseAddress]
  split_ifs with hb hp
  · rw [mask24_u24_add, mask24_addr20]
  · rw [mask24_u24_add, mask24_addr20, nextPC_eq_add]
  · exact mask24_addr20 addr

/-- The direct format-3 address is the displacement modulo 2^20 (40_execution_cycle.md R46, log entry 33). -/
theorem u24_effectiveAddress_of_direct {fl : AddrFlags} {disp : Int} {s : State} (hp : fl.p = false) (hb : fl.b = false)
    (hx : fl.x = false) : u24 (effectiveAddress (.format3 fl disp) s) = disp % 2 ^ 20 := by
  have hea : effectiveAddress (.format3 fl disp) s = mask24 (zext20 disp) := by
    simp only [effectiveAddress, baseAddress, MemRef.flags, hp, hb, hx, Bool.false_eq_true, if_false,
      Int.add_zero]
  rw [hea, u24_mask24, zext20]
  omega

/-- Settles O18: the base address of format 3 with the index added; a 12-bit displacement is less than 2^20 away from
zero, so reducing it adds 2^20 once or not at all. -/
theorem format3EffectiveAddress : Obligations.Format3EffectiveAddress := by
  refine ⟨fun fl disp s => ?address, fun fl disp s hp hb hx hlo hhi => ?direct⟩
  case address =>
    rw [effectiveAddress_eq_add, mask24_baseAddress_format3]
    rfl
  case direct =>
    rw [u24_effectiveAddress_of_direct hp hb hx]
    split <;> omega

/-- Settles O19: the base address of format 4 with the index added. -/
theorem format4EffectiveAddress : Obligations.Format4EffectiveAddress := by
  intro fl addr s
  rw [effectiveAddress_eq_add, mask24_baseAddress_format4]
  rfl

/-! ## The step transaction -/

/-- A failing step is answered with its fault and leaves the machine as it was (40_execution_cycle.md R45). -/
theorem State.transact_step_of_fault {s : State} {e : Fault} (h : step s = .fault e) :
    s.transact .step = (.fault e, s) := by
  simp only [State.transact, h]

theorem State.transact_step_of_next {s t : State} (h : step s = .next t) : s.transact .step = (.done, t) := by
  simp only [State.transact, h]

/-- Settles O50: by the answer of the step transaction to each of the two outcomes. -/
theorem failedStepLeavesMachineUnchanged : Obligations.FailedStepLeavesMachineUnchanged :=
  fun _ => ⟨fun _ => State.transact_step_of_fault, fun _ => State.transact_step_of_next⟩

end Sys2Proof.Machine
end

section
/-! Proofs about accumulator arithmetic (42_arithmetic_compare_logic.md R70): what an accumulator instruction does with a
readable and an unreadable operand, and the 24-bit sum in the two views. -/

namespace Sys2Proof.Machine

/-! ## The two outcomes of an accumulator instruction -/

theorem exec_add (m : MemRef) (s : State) : exec (.add m) s = accumulate addWords m s := rfl

/-- With a readable operand an accumulator instruction changes `A` and `PC` only (42_arithmetic_compare_logic.md R70). -/
theorem accumulate_of_operandWord_ok (f : Word → Word → Word) {m : MemRef} {s : State} {v : Word}
    (h : operandWord m s = .ok v) :
    accumulate f m s = .next { s with regA := f s.regA v, pc := s.pc + BitVec.ofNat 24 m.length } := by
  rw [accumulate, h, orRaise_ok, nextPC_eq_add]
  rfl

/-- An unreadable operand is the fault of an accumulator instruction (42_arithmetic_compare_logic.md R70). -/
theorem accumulate_of_operandWord_error (f : Word → Word → Word) {m : MemRef} {s : State} {e : Fault}
    (h : operandWord m s = .error e) : accumulate f m s = .fault e := by
  rw [accumulate, h, orRaise_error]

/-! ## The sum in the two views -/

/-- The signed view of a masked integer is its balanced remainder modulo 2^24 (10_state.md R7). -/
theorem s24_mask24 (v : Int) : s24 (mask24 v) = Int.bmod v (2 ^ 24) := BitVec.toInt_ofInt ..

/-- The signed view of a 24-bit sum: the sum is the masked sum of the signed views. -/
theorem s24_add (a b : Word) : s24 (a + b) = Int.bmod (s24 a + s24 b) (2 ^ 24) := by
  rw [← addWords_eq_add, addWords, s24_mask24]

/-- The unsigned view of a 24-bit sum: the sum is the masked sum of the unsigned views too. -/
theorem u24_add (a b : Word) : u24 (a + b) = (u24 a + u24 b) % 2 ^ 24 := by
  rw [← u24_mask24, mask24_add, mask24_u24, mask24_u24]

/-- Settles O29: by the two outcomes of an accumulator instruction, and the 24-bit sum read in each view. -/
theorem addWrapsAtTwentyFourBits : Obligations.AddWrapsAtTwentyFourBits := by
  refine ⟨rfl, fun m s => ⟨fun v hv => ⟨?nextState, s24_add s.regA v, u24_add s.regA v⟩, fun e he => ?fault⟩⟩
  case nextState =>
    rw [exec_add, accumulate_of_operandWord_ok addWords hv, addWords_eq_add]
  case fault =>
    rw [exec_add, accumulate_of_operandWord_error addWords he]

end Sys2Proof.Machine
end

section
/-! Proofs about the decoder and the encoder (30_encoding.md R30 to R40): the opcode map covers the 64 opcodes, and decoding
and encoding undo each other. -/

namespace Sys2Proof

/-! ## The opcode map -/

/-- The base format of the instructions a row makes. -/
def OpcodeRow.format : OpcodeRow → BaseFormat
  | .format1 _ => .one
  | .format2 _ => .two
  | .memory _ => .threeFour

/-- Each row has the base format of the opcode-format table (30_encoding.md R32). -/
theorem opcodeFormat_of_row {op : Byte} {row : OpcodeRow} (h : opcodeRow op = some row) :
    opcodeFormat op = row.format := by
  unfold opcodeRow at h
  split at h <;> cases h <;> rfl

theorem isSome_opcodeRow_iff : ∀ op : Byte, (opcodeRow op).isSome = true ↔ op &&& 3#8 = 0#8 := by
  decide

/-- No value of byte 1 is rejected (30_encoding.md R31, R38): with its two low bits cleared it has a row. -/
theorem exists_opcodeRow_opcodeOf (b : Byte) : ∃ row, opcodeRow (opcodeOf b) = some row := by
  have hmul : opcodeOf b &&& 3#8 = 0#8 := by
    rw [opcodeOf, BitVec.and_assoc]
    exact BitVec.and_zero
  exact Option.isSome_iff_exists.mp ((isSome_opcodeRow_iff _).mpr hmul)

/-- Settles O13: the rows by the multiples of 4, the formats by the row's own format. -/
theorem opcodeMapCoversTheSixtyFourOpcodes : Obligations.OpcodeMapCoversTheSixtyFourOpcodes := by
  refine fun op => ⟨isSome_opcodeRow_iff op, fun row h => ?_⟩
  rw [opcodeFormat_of_row h]
  cases row <;> simp [OpcodeRow.format]

theorem opcodeOf_eq_self_of_mul4 : ∀ op : Byte, op &&& 3#8 = 0#8 → opcodeOf op = op := by decide

/-- An opcode that has a row is its own opcode extraction (30_encoding.md R31). -/
theorem opcodeOf_eq_self_of_row {op : Byte} {row : OpcodeRow} (h : opcodeRow op = some row) : opcodeOf op = op :=
  opcodeOf_eq_self_of_mul4 op ((isSome_opcodeRow_iff op).mp (Option.isSome_iff_exists.mpr ⟨row, h⟩))

/-- The row of an instruction's opcode, for each shape of its fields (30_encoding.md R39). -/
theorem opcodeRow_opcode (i : Instr) :
    match i.shape with
    | .format1 => opcodeRow i.opcode = some (.format1 i)
    | .format2 r1 r2 => ∃ mk, opcodeRow i.opcode = some (.format2 mk) ∧ mk r1 r2 = i
    | .memory m => ∃ mk, opcodeRow i.opcode = some (.memory mk) ∧ mk m = i := by
  cases i with
  | unsupportedC0 | unsupportedC4 | unsupportedC8 | unsupportedF0 | unsupportedF4 | unsupportedF8 => rfl
  | _ => exact ⟨_, rfl, rfl⟩

/-! ## Decoding what was encoded -/

/-- A format-2 row decodes the two nibbles, whatever the ignored bits of byte 1 (30_encoding.md R34). -/
theorem decode_of_format2_row {b1 : Byte} {mk : Nibble → Nibble → Instr}
    (hrow : opcodeRow (opcodeOf b1) = some (.format2 mk)) (r1 r2 : Nibble) (rest : List Byte) :
    decode (b1 :: (r1 ++ r2 : Byte) :: rest) = .ok (mk r1 r2, rest) := by
  simp only [decode, hrow, nibbles_of_append]

/-- A row of the format-3/4 group decodes an encoded address field, format 3 or format 4 as `e` says (30_encoding.md R35 to
R37). -/
theorem decode_encodeMemory {op : Byte} {mk : MemRef → Instr} {m : MemRef} (hrow : opcodeRow op = some (.memory mk))
    (hm : m.wellFormed = true) (rest : List Byte) :
    decode (encodeMemory op m ++ rest) = .ok (mk m, rest) := by
  have hop (fl : AddrFlags) : opcodeOf (encodeByte1 op fl) = op :=
    opcodeOf_encodeByte1 op fl (opcodeOf_eq_self_of_row hrow)
  cases m with
  | format3 fl disp =>
    obtain ⟨hlo, hhi⟩ : -2048 ≤ disp ∧ disp ≤ 2047 := by simpa [MemRef.wellFormed] using hm
    simp [encodeMemory, decode, hop, hrow, decodeE_encodeByte2, decodeFlags_encode, field12, encodeByte2_low,
      append_of_field12, sext12_ofInt disp hlo hhi]
  | format4 fl addr =>
    simp [encodeMemory, decode, hop, hrow, decodeE_encodeByte2, decodeFlags_encode, field20, encodeByte2_low,
      append_of_field20]

/-- Settles O10: by the shape of the instruction's fields; in each, the row of the opcode makes the instruction again from
the fields taken out of the bytes. -/
theorem decodeOfEncodeIsIdentity : Obligations.DecodeOfEncodeIsIdentity := by
  intro i rest hwf
  have hrow := opcodeRow_opcode i
  cases hs : i.shape with
  | format1 =>
    simp only [hs] at hrow
    simp [encode, hs, decode, opcodeOf_eq_self_of_row hrow, hrow]
  | format2 r1 r2 =>
    simp only [hs] at hrow
    obtain ⟨mk, hmk, rfl⟩ := hrow
    rw [← opcodeOf_eq_self_of_row hmk] at hmk
    rw [encode, hs]
    exact decode_of_format2_row hmk r1 r2 rest
  | memory m =>
    simp only [hs] at hrow
    obtain ⟨mk, hmk, rfl⟩ := hrow
    rw [encode, hs]
    exact decode_encodeMemory hmk (wellFormed_of_shape hwf hs) rest

/-! ## Encoding what was decoded -/

theorem wellFormed_format3_sext12 (fl : AddrFlags) (f : BitVec 12) :
    (MemRef.format3 fl (sext12 f)).wellFormed = true := by
  obtain ⟨hlo, hhi, -⟩ := sext12_range f
  simp [MemRef.wellFormed, hlo, hhi]

/-- The bytes of a format-3 instruction are its encoding (30_encoding.md R36). -/
theorem encodeMemory_format3 {b1 b2 : Byte} (b3 : Byte) (he : decodeE b2 = false) :
    encodeMemory (opcodeOf b1) (.format3 (decodeFlags b1 b2) (sext12 (field12 b2 b3))) = [b1, b2, b3] := by
  obtain ⟨-, -, hfield⟩ := sext12_range (field12 b2 b3)
  obtain ⟨hhigh, hlow⟩ := field12_of_append (b2.extractLsb' 0 4) b3
  have hb2 := encodeByte2_decodeFlags b1 b2
  rw [he] at hb2
  simp only [encodeMemory, hfield, encodeByte1_decodeFlags]
  rw [field12, hhigh, hlow, hb2]

/-- The bytes of a format-4 instruction are its encoding (30_encoding.md R37). -/
theorem encodeMemory_format4 {b1 b2 : Byte} (b3 b4 : Byte) (he : decodeE b2 = true) :
    encodeMemory (opcodeOf b1) (.format4 (decodeFlags b1 b2) (field20 b2 b3 b4)) = [b1, b2, b3, b4] := by
  obtain ⟨hhigh, hmid, hlow⟩ := field20_of_append (b2.extractLsb' 0 4) b3 b4
  have hb2 := encodeByte2_decodeFlags b1 b2
  rw [he] at hb2
  simp only [encodeMemory, encodeByte1_decodeFlags]
  rw [field20, hhigh, hmid, hlow, hb2]

/-- Settles O11: by the four forms of a successful decoding. -/
theorem encodeOfDecodeUpToIgnoredBits : Obligations.EncodeOfDecodeUpToIgnoredBits := by
  intro bytes rest i h
  rcases decode_eq_ok h with ⟨b1, rfl, hrow⟩ | ⟨b1, b2, mk, rfl, hrow, rfl⟩ |
    ⟨b1, b2, b3, mk, rfl, hrow, he, rfl⟩ | ⟨b1, b2, b3, b4, mk, rfl, hrow, he, rfl⟩
  · obtain ⟨hshape, hop, hwf⟩ := opcodeRow_makes hrow
    refine ⟨hwf, b1, [], rfl, ?_, fun ⟨m, hm⟩ => by simp [hshape] at hm⟩
    simp [encode, hshape, hop, opcodeOf_opcodeOf]
  · obtain ⟨hshape, hop, hwf⟩ := opcodeRow_makes hrow (b2.extractLsb' 4 4) (b2.extractLsb' 0 4)
    refine ⟨hwf, b1, [b2], rfl, ?_, fun ⟨m, hm⟩ => by simp [hshape] at hm⟩
    simp [encode, hshape, hop, opcodeOf_opcodeOf, append_of_nibbles]
  · obtain ⟨hshape, hop, hwf⟩ := opcodeRow_makes hrow (.format3 (decodeFlags b1 b2) (sext12 (field12 b2 b3)))
    have henc := encodeMemory_format3 (b1 := b1) b3 he
    refine ⟨hwf.trans (wellFormed_format3_sext12 _ _), b1, [b2, b3], rfl, ?_, fun _ => ?_⟩ <;>
      simp [encode, hshape, hop, henc]
  · obtain ⟨hshape, hop, hwf⟩ := opcodeRow_makes hrow (.format4 (decodeFlags b1 b2) (field20 b2 b3 b4))
    have henc := encodeMemory_format4 (b1 := b1) b3 b4 he
    refine ⟨hwf, b1, [b2, b3, b4], rfl, ?_, fun _ => ?_⟩ <;>
      simp [encode, hshape, hop, henc]

/-! ## Four bytes always decode -/

/-- Settles O12: byte 1 has a row, and in each format the row makes an instruction of that opcode and length. -/
theorem everyFourBytesDecode : Obligations.EveryFourBytesDecode := by
  intro b1 b2 b3 b4 rest
  obtain ⟨row, hrow⟩ := exists_opcodeRow_opcodeOf b1
  have hformat : opcodeFormat (b1 &&& 0xFC#8) = row.format := opcodeFormat_of_row hrow
  have hmakes := opcodeRow_makes hrow
  rw [hformat]
  cases row with
  | format1 i =>
    obtain ⟨hshape, hop, -⟩ := hmakes
    exact ⟨i, b2 :: b3 :: b4 :: rest, by simp only [decode, hrow], hop,
      by simp [Instr.length, hshape, OpcodeRow.format]⟩
  | format2 mk =>
    obtain ⟨hshape, hop, -⟩ := hmakes (b2.extractLsb' 4 4) (b2.extractLsb' 0 4)
    exact ⟨_, b3 :: b4 :: rest, by simp only [decode, hrow], hop,
      by simp [Instr.length, hshape, OpcodeRow.format]⟩
  | memory mk =>
    cases he : decodeE b2 with
    | false =>
      obtain ⟨hshape, hop, -⟩ := hmakes (.format3 (decodeFlags b1 b2) (sext12 (field12 b2 b3)))
      refine ⟨_, b4 :: rest, by simp only [decode, hrow, he]; rfl, hop, ?_⟩
      rw [show b2.getLsbD 4 = false from he]
      simp [Instr.length, hshape, OpcodeRow.format, MemRef.length]
    | true =>
      obtain ⟨hshape, hop, -⟩ := hmakes (.format4 (decodeFlags b1 b2) (field20 b2 b3 b4))
      refine ⟨_, rest, by simp only [decode, hrow, he]; rfl, hop, ?_⟩
      rw [show b2.getLsbD 4 = true from he]
      simp [Instr.length, hshape, OpcodeRow.format, MemRef.length]

/-- Settles O14: closed words, evaluated. -/
theorem specEncodingsDecode : Obligations.SpecEncodingsDecode := by
  refine ⟨?_, ?_, ?_, ?_, ?_, ?_, ?_⟩ <;> rfl

end Sys2Proof
end

section
/-! Proofs about fetch and step (30_encoding.md R38, 40_execution_cycle.md R43): where a fetch fails, and that a step runs the
instruction whose bytes stand at `PC`. -/

namespace Sys2Proof

/-! ## Where a decoding fails -/

/-- A decoding fails only where a byte is missing, and then it has used every byte given (30_encoding.md R38). -/
theorem decode_eq_error {bytes : List Byte} {e : DecodeError} (h : decode bytes = .error e) :
    e = .missingByte bytes.length ∧ bytes.length ≤ 3 := by
  match bytes, h with
  | [], h => cases h; exact ⟨rfl, by decide⟩
  | b1 :: tail, h =>
    obtain ⟨row, hrow⟩ := exists_opcodeRow_opcodeOf b1
    match row, tail with
    | .format1 i, tail => simp [decode, hrow] at h
    | .format2 mk, [] => simp [decode, hrow] at h; simp [h]
    | .format2 mk, b2 :: tail => simp [decode, hrow] at h
    | .memory mk, [] => simp [decode, hrow] at h; simp [h]
    | .memory mk, [b2] => simp [decode, hrow] at h; simp [h]
    | .memory mk, [b2, b3] =>
      cases he : decodeE b2 <;> simp [decode, hrow, he] at h
      simp [h]
    | .memory mk, b2 :: b3 :: b4 :: tail => cases he : decodeE b2 <;> simp [decode, hrow, he] at h

theorem Instr.length_pos (i : Instr) : 0 < i.length := by
  unfold Instr.length
  split
  · exact Nat.one_pos
  · exact Nat.two_pos
  · next m _ => cases m <;> exact Nat.succ_pos _

end Sys2Proof

namespace Sys2Proof.Machine

/-! ## Fetch -/

theorem State.fetch_of_decode_ok {s : State} {i : Instr} {rest : List Byte}
    (h : decode s.fetchWindow = .ok (i, rest)) : s.fetch = .ok i := by
  rw [State.fetch, h]

theorem State.fetch_of_missingByte {s : State} {k : Nat} (h : decode s.fetchWindow = .error (.missingByte k)) :
    s.fetch = .error (.addressError ((s.pc.toNat + k : Nat) : Int)) := by
  rw [State.fetch, h]

theorem State.length_fetchWindow (s : State) : s.fetchWindow.length = min 4 (s.size - s.pc.toNat) :=
  s.length_bytesFrom s.pc.toNat 4

/-- A fetch succeeds only where every byte of the instruction exists (30_encoding.md R38). -/
theorem State.fetch_eq_ok_inside {s : State} {i : Instr} (h : s.fetch = .ok i) : s.pc.toNat + i.length ≤ s.size := by
  rcases s.fetch_cases with ⟨j, rest, hd, hf⟩ | ⟨k, -, hf⟩ | ⟨op, -, hf⟩ <;> rw [hf] at h <;> cases h
  have hlen := length_of_decode hd
  have hpos := i.length_pos
  rw [s.length_fetchWindow] at hlen
  omega

/-- A fetch fails only with an `AddressError` at the first byte that does not exist (30_encoding.md R38, 60_exceptions.md
R95). -/
theorem State.fetch_eq_error {s : State} {e : Fault} (h : s.fetch = .error e) :
    ∃ k : Nat, k ≤ 3 ∧ e = .addressError ((s.pc.toNat + k : Nat) : Int) ∧
      s.size ≤ s.pc.toNat + k ∧ ∀ j, j < k → s.pc.toNat + j < s.size := by
  have hlen := s.length_fetchWindow
  rcases s.fetch_cases with ⟨i, rest, -, hf⟩ | ⟨k, hd, hf⟩ | ⟨op, hd, -⟩
  · rw [hf] at h; cases h
  · rw [hf] at h; cases h
    obtain ⟨hk, hle⟩ := decode_eq_error hd
    cases hk
    exact ⟨_, hle, rfl, by omega, fun j hj => by omega⟩
  · cases (decode_eq_error hd).1

/-! ## Step -/

theorem step_of_fetch_ok {s : State} {i : Instr} (h : s.fetch = .ok i) : step s = exec i s := by
  rw [step, h, orRaise_ok]

theorem step_of_fetch_error {s : State} {e : Fault} (h : s.fetch = .error e) : step s = .fault e := by
  rw [step, h, orRaise_error]

/-- Settles O15: the fetch gives the decoded instruction. -/
theorem stepRunsDecodedInstruction : Obligations.StepRunsDecodedInstruction :=
  fun _ _ _ h => step_of_fetch_ok (State.fetch_of_decode_ok h)

/-- Settles O16: the bytes of the instruction, at most four, come first in the fetch's window, and what stands after them
does not change the decoding. -/
theorem stepRunsInstructionEncodedInMemory : Obligations.StepRunsInstructionEncodedInMemory := by
  intro s bytes i hd hin hbytes
  have hlen : bytes.length ≤ 4 := (length_of_decode hd).trans_le i.length_le
  obtain ⟨rest, hwindow⟩ := s.bytesFrom_eq_append bytes s.pc.toNat 4 hlen hin hbytes
  have hdecode : decode s.fetchWindow = .ok (i, rest) := by
    rw [State.fetchWindow, hwindow]
    exact decode_append hd rest
  exact step_of_fetch_ok (State.fetch_of_decode_ok hdecode)

/-- Settles O17: by the two outcomes of a fetch; where `PC` itself does not exist the window is empty. -/
theorem fetchFailsAtFirstMissingByte : Obligations.FetchFailsAtFirstMissingByte := by
  refine fun s => ⟨fun hout => ?_, fun _ => State.fetch_eq_error, fun _ => State.fetch_eq_ok_inside⟩
  have hempty : s.fetchWindow = [] := List.eq_nil_of_length_eq_zero (by rw [s.length_fetchWindow]; omega)
  have hmissing : decode s.fetchWindow = .error (.missingByte 0) := by rw [hempty]; rfl
  exact step_of_fetch_error (State.fetch_of_missingByte hmissing)

end Sys2Proof.Machine
end

section
/-! Proofs about reset, construction and the byte write (10_state.md R15, 20_memory.md R18, 70_reset_and_hazards.md R107,
R108). -/

namespace Sys2Proof.Machine

/-! ## The host's reset -/

theorem State.readReg_hostReset (s : State) (clear : Bool) (q : RegId) : (s.hostReset clear).readReg q = 0#24 := by
  cases q with
  | general r => cases r <;> rfl
  | pc => rfl
  | sw => rfl

theorem State.cc_hostReset (s : State) (clear : Bool) : (s.hostReset clear).cc = 0 := by
  rw [State.cc, State.sw_hostReset]
  rfl

/-- Memory is cleared or kept, as the argument says (70_reset_and_hazards.md R108, decision D19). -/
theorem State.byteAt_hostReset (s : State) (clear : Bool) (a : Nat) :
    Memory.byteAt (s.hostReset clear).mem a = if clear then 0#8 else Memory.byteAt s.mem a := by
  cases clear <;> rfl

/-- Settles O3: the answer of the transaction is the reset state, whose registers and bytes are known. -/
theorem hostResetZeroesRegistersAndOptionallyMemory : Obligations.HostResetZeroesRegistersAndOptionallyMemory :=
  fun s clear => ⟨rfl, s.readReg_hostReset clear, s.cc_hostReset clear, rfl, s.byteAt_hostReset clear⟩

/-! ## The zeroed machine -/

/-- A machine whose registers and memory are all zero is what a clearing reset makes of it. -/
theorem State.zeroed_eq_hostReset (words : Nat) :
    ({ State.reset with memWords := words } : State) = State.hostReset { State.reset with memWords := words } true := rfl

/-- Settles O1: the reset state is what a clearing reset makes of it. -/
theorem resetStateHoldsZeroEverywhere : Obligations.ResetStateHoldsZeroEverywhere := by
  have hzero : State.reset = State.reset.hostReset true := State.zeroed_eq_hostReset Config.resetMemWords
  rw [Obligations.ResetStateHoldsZeroEverywhere, hzero]
  exact ⟨State.readReg_hostReset _ true, State.cc_hostReset _ true, State.byteAt_hostReset _ true⟩

/-- All `construct` can answer (70_reset_and_hazards.md R107, 60_exceptions.md R99). -/
theorem construct_cases (words : Int) :
    (words ≤ 0 ∧ construct words = .fault (.configurationError words)) ∨
    (1 ≤ words ∧ words ≤ 5592405 ∧ construct words = .next { State.reset with memWords := words.toNat }) ∨
    (5592405 < words ∧ construct words = .refused (.memoryTooLarge words)) := by
  unfold construct
  split
  · next hneg => exact .inl ⟨hneg, rfl⟩
  · split
    · next hpos hle => exact .inr (.inl ⟨by omega, hle, rfl⟩)
    · next hgt => exact .inr (.inr ⟨Int.not_le.mp hgt, rfl⟩)

/-- Settles O2: by the three outcomes of `construct`, whose ranges exclude each other. -/
theorem constructBuildsZeroedMachineOrFails : Obligations.ConstructBuildsZeroedMachineOrFails := by
  intro words
  rcases construct_cases words with ⟨hw, hc⟩ | ⟨hpos, hle, hc⟩ | ⟨hw, hc⟩
  · exact ⟨fun _ => hc, fun _ _ => by omega, fun _ => by omega⟩
  · refine ⟨fun _ => by omega, fun _ _ => ⟨_, hc, ?size, ?zero⟩, fun _ => by omega⟩
    case size =>
      rw [State.size_eq]
      push_cast
      rw [Int.toNat_of_nonneg (by omega)]
    case zero =>
      rw [State.zeroed_eq_hostReset]
      exact ⟨State.readReg_hostReset _ true, State.cc_hostReset _ true, State.byteAt_hostReset _ true⟩
  · exact ⟨fun _ => by omega, fun _ _ => by omega, fun _ => hc⟩

/-! ## The byte write -/

/-- A byte write changes nothing but memory. -/
theorem State.eq_with_mem_of_writeByte {s t : State} {a : Nat} {v : Byte} (h : s.writeByte a v = .ok t) :
    t = { s with mem := t.mem } := by
  rcases s.writeByte_cases a v with ⟨-, hw⟩ | ⟨-, hw⟩ <;> rw [hw] at h <;> cases h
  rfl

/-- A written byte reads back, and every other byte is as before (20_memory.md R18). -/
theorem State.byteAt_writeByte {s t : State} {a : Nat} {v : Byte} (hwf : Memory.wf s.mem) (h : s.writeByte a v = .ok t)
    (b : Nat) : Memory.byteAt t.mem b = if b = a then v else Memory.byteAt s.mem b := by
  rcases s.writeByte_cases a v with ⟨-, hw⟩ | ⟨-, hw⟩ <;> rw [hw] at h <;> cases h
  rw [State.mem_setMemByte, Memory.byteAt_setByte _ hwf]

/-- A byte that exists can be written (20_memory.md R18). -/
theorem State.exists_writeByte_eq_ok {s : State} {a : Nat} (h : a < s.size) (v : Byte) : ∃ t, s.writeByte a v = .ok t := by
  rcases s.writeByte_cases a v with ⟨-, hw⟩ | ⟨hout, -⟩
  · exact ⟨_, hw⟩
  · omega

theorem State.writeByte_of_outside {s : State} {a : Nat} (h : s.size ≤ a) (v : Byte) :
    s.writeByte a v = .error (.addressError a) := by
  rcases s.writeByte_cases a v with ⟨hin, -⟩ | ⟨-, hw⟩
  · omega
  · exact hw

/-- A byte's value is the integer modulo 256 (20_memory.md R18). -/
theorem toNat_ofInt_eight (v : Int) : ((BitVec.ofInt 8 v).toNat : Int) = v % 256 := by
  rw [BitVec.toNat_ofInt]
  exact Int.toNat_of_nonneg (Int.emod_nonneg v (by decide))

/-- Settles O7: by the two outcomes of a byte write, and what reads back after it. -/
theorem byteWriteChangesOneByte : Obligations.ByteWriteChangesOneByte := by
  refine fun s addr v hwf => ⟨fun hout => State.writeByte_of_outside hout _, fun hin => ?_⟩
  obtain ⟨t, ht⟩ := State.exists_writeByte_eq_ok hin (BitVec.ofInt 8 v)
  have hbyte := State.byteAt_writeByte hwf ht
  refine ⟨t, ht, State.eq_with_mem_of_writeByte ht, ?_, fun b hb => ?_⟩
  · rw [hbyte, if_pos rfl, toNat_ofInt_eight]
  · rw [hbyte, if_neg hb]

end Sys2Proof.Machine
end

section
/-! Proofs about operands (40_execution_cycle.md R49 to R51, 30_encoding.md R41): the two operand tables, and the row
`n = 0, i = 0` as the simple one. -/

namespace Sys2Proof.Machine

/-! ## The rows of the operand tables -/

theorem operandMode_of_immediate {fl : AddrFlags} (hn : fl.n = false) (hi : fl.i = true) :
    operandMode fl = .immediate := by
  simp only [operandMode, hn, hi]

theorem operandMode_of_indirect {fl : AddrFlags} (hn : fl.n = true) (hi : fl.i = false) :
    operandMode fl = .indirect := by
  simp only [operandMode, hn, hi]

/-- The rows `n i = 1 1` and `0 0` read the operand at the effective address (40_execution_cycle.md R49). -/
theorem operandMode_of_eq {fl : AddrFlags} (h : fl.n = fl.i) :
    operandMode fl = .simple ∨ operandMode fl = .degenerate := by
  cases hi : fl.i <;> simp [operandMode, h, hi]

theorem State.readWord_of_outside {s : State} {a : Nat} (h : s.size ≤ a + 2) :
    s.readWord a = .error (.addressError a) := by
  rcases s.readWord_cases a with ⟨hin, -⟩ | ⟨-, hr⟩
  · omega
  · exact hr

/-- Settles O20: by the row of the operand table that the flags select. -/
theorem operandTableRows : Obligations.OperandTableRows := by
  refine fun m s => ⟨fun hn hi => ?immediate, fun h => ?direct,
    fun hn hi => ⟨fun p hp => ?pointer, fun hout => ?outside⟩⟩
  case immediate => simp only [operandWord, operandMode_of_immediate hn hi]
  case direct => rcases operandMode_of_eq h with hm | hm <;> simp only [operandWord, hm]
  case pointer => simp only [operandWord, operandMode_of_indirect hn hi, hp]
  case outside => simp only [operandWord, operandMode_of_indirect hn hi, State.readWord_of_outside hout]

/-- Settles O21: by the row of the byte operand table that the flags select. -/
theorem byteOperandRows : Obligations.ByteOperandRows := by
  refine fun m s => ⟨fun hn hi => ?immediate, fun h => ?direct,
    fun hn hi => ⟨fun p hp => ?pointer, fun hout => ?outside⟩⟩
  case immediate => simp only [operandByte, operandMode_of_immediate hn hi]
  case direct => rcases operandMode_of_eq h with hm | hm <;> simp only [operandByte, hm]
  case pointer => simp only [operandByte, operandMode_of_indirect hn hi, hp]
  case outside => simp only [operandByte, operandMode_of_indirect hn hi, State.readWord_of_outside hout]

/-! ## The degenerate row -/

/-- What an instruction of the format-3/4 group can take from its address field: the effective address, the two operands and
the length. -/
structure SameAccess (m m' : MemRef) (s : State) : Prop where
  address : effectiveAddress m s = effectiveAddress m' s
  word : operandWord m s = operandWord m' s
  byte : operandByte m s = operandByte m' s
  length : m.length = m'.length

/-- No instruction of the format-3/4 group takes more than that from its address field. -/
theorem SameAccess.exec_eq {op : Byte} {mk : MemRef → Instr} {m m' : MemRef} {s : State} (h : SameAccess m m' s)
    (hrow : opcodeRow op = some (.memory mk)) : exec (mk m) s = exec (mk m') s := by
  obtain ⟨haddr, hword, hbyte, hlen⟩ := h
  unfold opcodeRow at hrow
  split at hrow <;> cases hrow <;>
    simp only [exec, execLda, execLdx, execLdl, execLdb, execLds, execLdt, loadRegister, execSta, execStx, execStl, execStb,
      execSts, execStt, storeRegister, execLdch, execStch, execAdd, execSub, execMul, execAnd, execOr, accumulate, execDiv,
      execComp, execTix, execJ, execJsub, execJeq, execJgt, execJlt, branchIf, targetAddress, haddr, hword, hbyte, hlen]

/-- Addressing does not look at `n i`, and the rows `0 0` and `1 1` read the operand at the effective address
(40_execution_cycle.md R46 to R51). -/
theorem sameAccess_format3_degenerate (x b p : Bool) (disp : Int) (s : State) :
    SameAccess (.format3 ⟨false, false, x, b, p⟩ disp) (.format3 ⟨true, true, x, b, p⟩ disp) s :=
  ⟨rfl, rfl, rfl, rfl⟩

theorem sameAccess_format4_degenerate (x b p : Bool) (addr : BitVec 20) (s : State) :
    SameAccess (.format4 ⟨false, false, x, b, p⟩ addr) (.format4 ⟨true, true, x, b, p⟩ addr) s :=
  ⟨rfl, rfl, rfl, rfl⟩

/-- Settles O22: under both rows the address field gives the same address, operands and length. -/
theorem degenerateModeIsSimpleMode : Obligations.DegenerateModeIsSimpleMode :=
  fun _ _ x b p disp addr s hrow =>
    ⟨(sameAccess_format3_degenerate x b p disp s).exec_eq hrow, (sameAccess_format4_degenerate x b p addr s).exec_eq hrow⟩

end Sys2Proof.Machine
end

section
/-! Proofs about the loads and stores (41_load_store.md): the exact next state where the bytes exist, and the fault where they
do not. -/

namespace Sys2Proof.Machine

/-! ## Word loads -/

/-- With a readable operand a load replaces its register and advances `PC` (41_load_store.md R56). -/
theorem loadRegister_of_operandWord_ok (r : GReg) {m : MemRef} {s : State} {v : Word} (h : operandWord m s = .ok v) :
    loadRegister r m s = .next ((s.setReg r v).setPc (s.pc + BitVec.ofNat 24 m.length)) := by
  rw [loadRegister, h, orRaise_ok, nextPC_eq_add]

/-- Settles O23: each load is the load of its register. -/
theorem wordLoadsReplaceTheRegister : Obligations.WordLoadsReplaceTheRegister := by
  intro m s v h
  have hload (r : GReg) := loadRegister_of_operandWord_ok r h
  exact ⟨hload .a, hload .x, hload .l, hload .b, hload .s, hload .t⟩

/-! ## The instructions that resolve a word operand -/

/-- The fourteen instructions that resolve a word operand (41_load_store.md R56 to R61, 42_arithmetic_compare_logic.md R70 to
R77). -/
def wordReaders (m : MemRef) : List Instr :=
  [.lda m, .ldx m, .ldl m, .ldb m, .lds m, .ldt m, .add m, .sub m, .mul m, .div m, .comp m, .and m, .or m, .tix m]

/-- Each of them resolves the operand before it does anything else. -/
theorem exec_of_mem_wordReaders {i : Instr} {m : MemRef} (hi : i ∈ wordReaders m) (s : State) :
    ∃ k, exec i s = orRaise (operandWord m s) k := by
  simp only [wordReaders, List.mem_cons, List.not_mem_nil, or_false] at hi
  rcases hi with rfl | rfl | rfl | rfl | rfl | rfl | rfl | rfl | rfl | rfl | rfl | rfl | rfl | rfl <;> exact ⟨_, rfl⟩

/-- An unreadable operand is an `AddressError` at the word that leaves memory, the pointer's or the operand's
(40_execution_cycle.md R49). -/
theorem operandWord_eq_error_outside {m : MemRef} {s : State} {e : Fault} (h : operandWord m s = .error e) :
    ∃ a : Nat, e = .addressError a ∧ s.size ≤ a + 2 := by
  rcases operandWord_cases m s with ⟨-, ho⟩ | ⟨-, ho⟩ | ⟨-, ⟨p, -, ho⟩ | ⟨e', hr, ho⟩⟩ <;> rw [ho] at h
  · cases h
  · exact ⟨_, State.readWord_eq_error h⟩
  · exact ⟨_, State.readWord_eq_error h⟩
  · cases h; exact ⟨_, State.readWord_eq_error hr⟩

/-- Settles O24: each of the fourteen abandons the step with the operand's fault. -/
theorem unreadableOperandFaultsBeforeAnyEffect : Obligations.UnreadableOperandFaultsBeforeAnyEffect := by
  intro m s e he i hi
  obtain ⟨k, hk⟩ := exec_of_mem_wordReaders hi s
  exact ⟨by rw [hk, he, orRaise_error], operandWord_eq_error_outside he⟩

/-! ## The character load -/

/-- Replacing the low byte, as a mask and a union (41_load_store.md R68). -/
theorem withLowByte_eq_or (w : Word) (c : Byte) : withLowByte w c = (w &&& 0xFFFF00#24) ||| c.setWidth 24 := by
  have hmask : 0xFFFF00#24 = (BitVec.allOnes 16 ++ 0#8 : BitVec 24) := by decide
  rw [hmask, withLowByte]
  apply BitVec.eq_of_getLsbD_eq
  intro k hk
  simp only [BitVec.getLsbD_append, BitVec.getLsbD_or, BitVec.getLsbD_and, BitVec.getLsbD_setWidth,
    BitVec.getLsbD_allOnes, BitVec.getLsbD_extractLsb']
  by_cases hlow : k < 8
  · simp [hlow, hk]
  · have hhigh : k - 8 < 16 := by omega
    have hc : c.getLsbD k = false := BitVec.getLsbD_of_ge c k (by omega)
    simp [hlow, hhigh, hc, show 8 + (k - 8) = k by omega]

/-- Settles O25: by the byte operand, readable or not. -/
theorem characterLoadKeepsUpperBits : Obligations.CharacterLoadKeepsUpperBits := by
  refine fun m s => ⟨fun c hc => ?readable, fun e he => ?unreadable⟩
  case readable =>
    show execLdch m s = _
    rw [execLdch, hc, orRaise_ok, nextPC_eq_add, withLowByte_eq_or]
    rfl
  case unreadable =>
    show execLdch m s = _
    rw [execLdch, he, orRaise_error]

/-! ## Word stores -/

/-- A word whose three bytes exist can be written (20_memory.md R20). -/
theorem State.exists_writeWord_eq_ok {s : State} {a : Nat} (h : a + 2 < s.size) (v : Word) :
    ∃ t, s.writeWord a v = .ok t := by
  rcases s.writeWord_cases a v with ⟨-, hw⟩ | ⟨hout, -⟩
  · exact ⟨_, hw⟩
  · omega

@[simp] theorem State.readWord_setPc (s : State) (v : Word) (a : Nat) : (s.setPc v).readWord a = s.readWord a := rfl

/-- Where the word at the target exists, a store writes its three bytes there and changes nothing else but `PC`
(41_load_store.md R62). -/
theorem storeRegister_completes (r : GReg) {m : MemRef} {s : State} (hwf : Memory.wf s.mem)
    (hin : (targetAddress m s).toNat + 2 < s.size) :
    ∃ t, storeRegister r m s = .next t ∧
      t = { s with mem := t.mem, pc := s.pc + BitVec.ofNat 24 m.length } ∧
      t.readWord (targetAddress m s).toNat = .ok (s.reg r) ∧
      Memory.byteAt t.mem (targetAddress m s).toNat = (s.reg r).extractLsb' 16 8 ∧
      Memory.byteAt t.mem ((targetAddress m s).toNat + 1) = (s.reg r).extractLsb' 8 8 ∧
      Memory.byteAt t.mem ((targetAddress m s).toNat + 2) = (s.reg r).extractLsb' 0 8 ∧
      ∀ a : Nat, (a < (targetAddress m s).toNat ∨ (targetAddress m s).toNat + 2 < a) →
        Memory.byteAt t.mem a = Memory.byteAt s.mem a := by
  obtain ⟨u, hw⟩ := State.exists_writeWord_eq_ok hin (s.reg r)
  have byteOf {k : Nat} (hk : k ≤ 2) := State.byteAt_writeWord_of_le hwf hw hk
  have hother (a : Nat) := State.byteAt_writeWord_of_outside (b := a) hwf hw
  refine ⟨u.setPc (s.pc + BitVec.ofNat 24 m.length), ?result, ?frame,
    (u.readWord_setPc _ _).trans (State.readWord_of_writeWord hwf hw), byteOf (Nat.zero_le 2), byteOf (Nat.le_succ 1),
    byteOf (Nat.le_refl 2), hother⟩
  case result => rw [storeRegister, hw, orRaise_ok, nextPC_eq_add]
  case frame => rw [State.eq_with_mem_of_writeWord hw]; rfl

/-- Settles O26: each word store is the store of its register. -/
theorem wordStoresWriteThreeBytes : Obligations.WordStoresWriteThreeBytes := by
  intro m s hwf hin
  have hstore (r : GReg) := storeRegister_completes r hwf hin
  simp only [List.forall_mem_cons]
  exact ⟨hstore .a, hstore .x, hstore .l, hstore .b, hstore .s, hstore .t, by simp⟩

/-! ## The character store -/

/-- Settles O27: by the byte write at the target address. -/
theorem characterStoreWritesOneByte : Obligations.CharacterStoreWritesOneByte := by
  intro m s hwf hin
  obtain ⟨u, hw⟩ := State.exists_writeByte_eq_ok hin (s.regA.extractLsb' 0 8)
  have hbyte := State.byteAt_writeByte hwf hw
  refine ⟨u.setPc (s.pc + BitVec.ofNat 24 m.length), ?result, ?frame, ?stored, fun a ha => ?other⟩
  case result =>
    show execStch m s = _
    rw [execStch, hw, orRaise_ok, nextPC_eq_add]
  case frame => rw [State.eq_with_mem_of_writeByte hw]; rfl
  case stored => rw [State.mem_setPc, hbyte, if_pos rfl]
  case other => rw [State.mem_setPc, hbyte, if_neg ha]

/-! ## Stores that leave memory -/

theorem storeRegister_of_outside (r : GReg) {m : MemRef} {s : State} (hout : s.size ≤ (targetAddress m s).toNat + 2) :
    storeRegister r m s = .fault (.addressError (targetAddress m s).toNat) := by
  rcases storeRegister_cases r m s with ⟨t, hw, -⟩ | ⟨-, h⟩
  · rcases s.writeWord_cases (targetAddress m s).toNat (s.reg r) with ⟨hin, -⟩ | ⟨-, he⟩
    · omega
    · rw [he] at hw; cases hw
  · exact h

/-- Settles O28: the write at the target address fails, and the store with it. -/
theorem storesOutsideMemoryFault : Obligations.StoresOutsideMemoryFault := by
  refine fun m s => ⟨fun hout => ?word, fun hout => ?byte⟩
  case word =>
    have hstore (r : GReg) := storeRegister_of_outside r hout
    simp only [List.forall_mem_cons]
    exact ⟨hstore .a, hstore .x, hstore .l, hstore .b, hstore .s, hstore .t, by simp⟩
  case byte =>
    show execStch m s = _
    rw [execStch, State.writeByte_of_outside hout, orRaise_error]

end Sys2Proof.Machine
end

section
/-! Proofs about accumulator arithmetic, logic and comparison (42_arithmetic_compare_logic.md R71 to R77, 40_execution_cycle.md
R53): the exact next state with a readable operand, and the condition-code law. -/

namespace Sys2Proof.Machine

/-! ## Difference and product -/

/-- The signed view of a 24-bit difference: the difference is the masked difference of the signed views. -/
theorem s24_sub (a b : Word) : s24 (a - b) = Int.bmod (s24 a - s24 b) (2 ^ 24) := by
  rw [← subWords_eq_sub, subWords, s24_mask24]

theorem s24_mul (a b : Word) : s24 (a * b) = Int.bmod (s24 a * s24 b) (2 ^ 24) := by
  rw [← mulWords_eq_mul, mulWords, s24_mask24]

/-- The unsigned view of a 24-bit product: the product is the masked product of the unsigned views too. -/
theorem u24_mul (a b : Word) : u24 (a * b) = (u24 a * u24 b) % 2 ^ 24 := by
  rw [← u24_mask24, mask24_mul, mask24_u24, mask24_u24]

/-- Settles O30: SUB is an accumulator instruction, and the 24-bit difference is read signed. -/
theorem subIsAccumulatorMinusOperand : Obligations.SubIsAccumulatorMinusOperand := by
  refine fun m s v h => ⟨?_, s24_sub s.regA v⟩
  rw [← subWords_eq_sub]
  exact accumulate_of_operandWord_ok subWords h

/-- Settles O31: MUL is an accumulator instruction, and the 24-bit product is read in each view. -/
theorem mulKeepsLowBitsOfProduct : Obligations.MulKeepsLowBitsOfProduct := by
  refine fun m s => ⟨fun v h => ⟨?_, s24_mul s.regA v, u24_mul s.regA v⟩,
    fun e he => accumulate_of_operandWord_error mulWords he⟩
  rw [← mulWords_eq_mul]
  exact accumulate_of_operandWord_ok mulWords h

/-- Settles O33: AND and OR are accumulator instructions with the bitwise operation. -/
theorem andOrAreBitwise : Obligations.AndOrAreBitwise :=
  fun _ _ => ⟨fun _ h =>
    ⟨⟨_, accumulate_of_operandWord_ok (fun a v => a &&& v) h, rfl, fun _ => BitVec.getLsbD_and⟩,
      ⟨_, accumulate_of_operandWord_ok (fun a v => a ||| v) h, rfl, fun _ => BitVec.getLsbD_or⟩⟩,
    fun _ he => ⟨accumulate_of_operandWord_error _ he, accumulate_of_operandWord_error _ he⟩⟩

/-! ## Division -/

/-- With a readable operand DIV fails on zero, and divides otherwise (42_arithmetic_compare_logic.md R73). -/
theorem execDiv_of_operandWord_ok {m : MemRef} {s : State} {v : Word} (h : operandWord m s = .ok v) :
    execDiv m s = if v = 0#24 then .fault .arithmeticError
      else .next { s with regA := s.regA.sdiv v, pc := s.pc + BitVec.ofNat 24 m.length } := by
  simp only [execDiv, h, orRaise_ok, s24_eq_zero_iff, raise_eq, divWords_eq_sdiv, nextPC_eq_add]
  rfl

/-- The signed quotient is rounded toward zero but for the one that does not fit (42_arithmetic_compare_logic.md R73, decision
D9). -/
theorem s24_sdiv {a b : Word} (h : ¬(a = 0x800000#24 ∧ b = 0xFFFFFF#24)) : s24 (a.sdiv b) = Int.tdiv (s24 a) (s24 b) :=
  BitVec.toInt_sdiv_of_ne_or_ne a b (not_and_or.mp h)

/-- Settles O32: by the test for zero, and the signed quotient. -/
theorem divTruncatesTowardZero : Obligations.DivTruncatesTowardZero := by
  intro m s v h
  have hdiv : exec (.div m) s = _ := execDiv_of_operandWord_ok h
  refine ⟨fun hz => ?zero, fun hnz => ?nonzero, fun _ => s24_sdiv, fun ha hv => ?overflow⟩
  case zero => rw [hdiv, if_pos hz]
  case nonzero => rw [hdiv, if_neg hnz]
  case overflow => rw [ha, hv]; decide

/-! ## The condition code -/

theorem s24_inj {a b : Word} : s24 a = s24 b ↔ a = b := BitVec.toInt_inj

/-- The carrier of the code of a signed comparison (10_state.md R10, decision D4). -/
theorem mask24_ccOf_s24 (a b : Word) :
    mask24 (ccOf (s24 a) (s24 b)) = if a.slt b then 0xFFFFFF#24 else if a = b then 0#24 else 1#24 := by
  have hslt : (a.slt b = true) ↔ s24 a < s24 b := BitVec.slt_iff_toInt_lt
  simp only [ccOf, hslt, s24_inj]
  split_ifs <;> rfl

/-- A signed comparison of two words writes only the carrier. -/
theorem setCC_s24 (s : State) (a b : Word) : s.setCC (s24 a) (s24 b) =
    { s with sw := if a.slt b then 0xFFFFFF#24 else if a = b then 0#24 else 1#24 } := by
  rw [State.setCC, mask24_ccOf_s24]
  rfl

/-- The code is -1, 0 or 1 exactly as the first value is less, equal or greater (40_execution_cycle.md R53). -/
theorem cc_setCC_law (s : State) (a b : Int) :
    ((s.setCC a b).cc = -1 ↔ a < b) ∧ ((s.setCC a b).cc = 0 ↔ a = b) ∧ ((s.setCC a b).cc = 1 ↔ b < a) := by
  rw [cc_setCC, ccOf]
  split_ifs <;> simp <;> omega

theorem execComp_of_operandWord_ok {m : MemRef} {s : State} {v : Word} (h : operandWord m s = .ok v) :
    execComp m s = .next ((s.setCC (s24 s.regA) (s24 v)).setPc (s.nextPC m.length)) := by
  rw [execComp, h, orRaise_ok]

/-- TIX compares the incremented index (42_arithmetic_compare_logic.md R77). -/
theorem execTix_of_operandWord_ok {m : MemRef} {s : State} {v : Word} (h : operandWord m s = .ok v) :
    execTix m s = .next (((s.setReg .x (s.regX + 1#24)).setCC (s24 (s.regX + 1#24)) (s24 v)).setPc (s.nextPC m.length)) := by
  rw [← incrementWord_eq_add, execTix, h, orRaise_ok]

theorem withRegs_of_some {r1 r2 : Nibble} {ra rb : GReg} (h1 : regOfCode r1 = some ra) (h2 : regOfCode r2 = some rb)
    (s : State) (k : GReg → GReg → StepResult) : withRegs r1 r2 s k = k ra rb := by
  rw [withRegs, h1, h2]

/-- With two valid codes COMPR compares the first register with the second (44_register_register.md R89). -/
theorem execCompr_of_some {r1 r2 : Nibble} {ra rb : GReg} (h1 : regOfCode r1 = some ra) (h2 : regOfCode r2 = some rb)
    (s : State) : execCompr r1 r2 s = .next ((s.setCC (s24 (s.reg ra)) (s24 (s.reg rb))).setPc (s.nextPC 2)) :=
  withRegs_of_some h1 h2 s _

/-- Settles O34: COMP is one signed comparison. -/
theorem compareWritesOnlyTheCarrier : Obligations.CompareWritesOnlyTheCarrier := by
  intro m s v h
  show execComp m s = _
  rw [execComp_of_operandWord_ok h, setCC_s24, nextPC_eq_add]
  rfl

/-- Settles O35: TIX is the increment and one signed comparison. -/
theorem tixIncrementsAndCompares : Obligations.TixIncrementsAndCompares := by
  intro m s v h
  show execTix m s = _
  rw [execTix_of_operandWord_ok h, setCC_s24, nextPC_eq_add]
  rfl

/-- Settles O36: each of the three leaves the code of its comparison, and the law holds of every comparison. -/
theorem conditionCodeLaw : Obligations.ConditionCodeLaw := by
  refine ⟨cc_setCC_law, fun m s t v h ht => ?comp, fun m s t v h ht => ?tix, fun r1 r2 ra rb s t h1 h2 ht => ?compr⟩
  case comp =>
    cases (execComp_of_operandWord_ok h).symm.trans ht
    exact cc_setCC_law s _ _
  case tix =>
    cases (execTix_of_operandWord_ok h).symm.trans ht
    exact cc_setCC_law (s.setReg .x (s.regX + 1#24)) _ _
  case compr =>
    cases (execCompr_of_some h1 h2 s).symm.trans ht
    exact cc_setCC_law s _ _

end Sys2Proof.Machine
end

section
/-! Proofs about control transfer (43_control_transfer.md): the target of each jump, and the jump to itself that ends a run. -/

namespace Sys2Proof.Machine

/-- Settles O37: the successor in JSUB is `PC` plus the length, and the target is the effective address. -/
theorem jumpCallAndReturn : Obligations.JumpCallAndReturn := by
  refine fun m s => ⟨rfl, ?call, rfl⟩
  show execJsub m s = _
  rw [execJsub, nextPC_eq_add]
  rfl

/-- The condition code is read through its carrier (10_state.md R10). -/
theorem State.cc_eq_s24_iff (s : State) (w : Word) : s.cc = s24 w ↔ s.sw = w := s24_inj

theorem branchIf_decide (c : Prop) [Decidable c] (m : MemRef) (s : State) : branchIf (decide c) m s =
    .next { s with pc := if c then effectiveAddress m s else s.pc + BitVec.ofNat 24 m.length } := by
  simp only [branchIf, decide_eq_true_eq, nextPC_eq_add, targetAddress]
  rfl

/-- A branch on the code of a carrier value (43_control_transfer.md R79 to R81). -/
theorem branchIf_cc (w : Word) (m : MemRef) (s : State) : branchIf (decide (s.cc = s24 w)) m s =
    .next { s with pc := if s.sw = w then effectiveAddress m s else s.pc + BitVec.ofNat 24 m.length } := by
  simp only [branchIf_decide, s.cc_eq_s24_iff]

/-- Settles O38: the codes 0, 1 and -1 are the signed views of the three carrier values. -/
theorem conditionalBranchesSelectTarget : Obligations.ConditionalBranchesSelectTarget :=
  fun m s => ⟨branchIf_cc 0#24 m s, branchIf_cc 1#24 m s, branchIf_cc 0xFFFFFF#24 m s⟩

/-- The displacement -3 undoes the advance of a format-3 instruction (40_execution_cycle.md R46). -/
theorem effectiveAddress_self (n i b : Bool) (s : State) :
    effectiveAddress (.format3 ⟨n, i, false, b, true⟩ (-3)) s = s.pc := by
  obtain ⟨haddress, -⟩ := format3EffectiveAddress
  have hback : 3#24 + BitVec.ofInt 24 (-3) = 0#24 := by decide
  rw [haddress, if_pos rfl, if_neg Bool.false_ne_true, BitVec.add_zero, BitVec.add_assoc, hback,
    BitVec.add_zero]

/-- Settles O39: the jump sets `PC` to what it was. -/
theorem jumpToItselfEndsTheRun : Obligations.JumpToItselfEndsTheRun := by
  intro s n i b hfetch
  have hstep : step s = .next s := by
    rw [step_of_fetch_ok hfetch]
    show execJ _ s = _
    rw [execJ, targetAddress, effectiveAddress_self]
    rfl
  exact ⟨hstep, s, hstep, rfl⟩

end Sys2Proof.Machine
end

section
/-! Proofs about the register-register instructions (44_register_register.md): the exact next state for valid codes, the
shifts as the library's, and the no-op for a bad code. -/

namespace Sys2Proof.Machine

theorem nextPC_two (s : State) : s.nextPC 2 = s.pc + 2#24 := nextPC_eq_add s 2

/-! ## Two registers -/

/-- With two valid codes a two-register operation writes its second register (44_register_register.md section 2). -/
theorem combineRegs_of_some (f : Word → Word → Word) {r1 r2 : Nibble} {ra rb : GReg} (h1 : regOfCode r1 = some ra)
    (h2 : regOfCode r2 = some rb) (s : State) : combineRegs f r1 r2 s =
      .next ((s.setReg rb (f (s.reg rb) (s.reg ra))).setPc (s.pc + 2#24)) := by
  rw [combineRegs, withRegs_of_some h1 h2, nextPC_two]

/-- Settles O40: each is a two-register operation, with the word operation in its 24-bit form. -/
theorem registerArithmeticAndMove : Obligations.RegisterArithmeticAndMove := by
  intro r1 r2 ra rb s h1 h2
  have hcombine (f : Word → Word → Word) := combineRegs_of_some f h1 h2 s
  rw [← addWords_eq_add, ← subWords_eq_sub, ← mulWords_eq_mul]
  exact ⟨hcombine addWords, hcombine subWords, hcombine mulWords, hcombine fun _ v => v⟩

/-- With two valid codes DIVR fails on a zero first register, and divides otherwise (44_register_register.md R88). -/
theorem execDivr_of_some {r1 r2 : Nibble} {ra rb : GReg} (h1 : regOfCode r1 = some ra) (h2 : regOfCode r2 = some rb)
    (s : State) : execDivr r1 r2 s = if s.reg ra = 0#24 then .fault .arithmeticError
      else .next ((s.setReg rb ((s.reg rb).sdiv (s.reg ra))).setPc (s.pc + 2#24)) := by
  simp only [execDivr, withRegs_of_some h1 h2, s24_eq_zero_iff, raise_eq, divWords_eq_sdiv, nextPC_two]

/-- Settles O41: by the test for zero. -/
theorem registerDivision : Obligations.RegisterDivision := by
  intro r1 r2 ra rb s h1 h2
  have hdiv : exec (.divr r1 r2) s = _ := execDivr_of_some h1 h2 s
  exact ⟨fun hz => by rw [hdiv, if_pos hz], fun hnz => by rw [hdiv, if_neg hnz]⟩

/-- Settles O42: COMPR is one signed comparison. -/
theorem registerCompare : Obligations.RegisterCompare := by
  intro r1 r2 ra rb s h1 h2
  show execCompr r1 r2 s = _
  rw [execCompr_of_some h1 h2, setCC_s24, nextPC_two]
  rfl

/-! ## One register -/

theorem withReg_of_some {r1 : Nibble} {ra : GReg} (h1 : regOfCode r1 = some ra) (s : State) (k : GReg → StepResult) :
    withReg r1 s k = k ra := by
  rw [withReg, h1]

/-- With a valid code a one-register operation writes its register (44_register_register.md R91 to R93). -/
theorem modifyReg_of_some (f : Word → Word) {r1 : Nibble} {ra : GReg} (h1 : regOfCode r1 = some ra) (s : State) :
    modifyReg f r1 s = .next ((s.setReg ra (f (s.reg ra))).setPc (s.pc + 2#24)) := by
  rw [modifyReg, withReg_of_some h1, nextPC_two]

/-- The shift count is at most 16 (44_register_register.md R91). -/
theorem shiftCount_lt (r2 : Nibble) : shiftCount r2 < 24 := by
  have : r2.toNat < 16 := r2.isLt
  unfold shiftCount
  omega

/-- The circular left shift is the library's rotation (44_register_register.md R91, decision D11). -/
theorem rotateLeft24_eq_rotateLeft (v : Word) {n : Nat} (hn : n < 24) : rotateLeft24 v n = v.rotateLeft n := by
  rw [rotateLeft24, mask24_natCast, BitVec.rotateLeft_eq_rotateLeftAux_of_lt hn, BitVec.rotateLeftAux]
  apply BitVec.eq_of_toNat_eq
  rw [BitVec.toNat_ofNat, BitVec.toNat_or, BitVec.toNat_shiftLeft, BitVec.toNat_ushiftRight, Nat.or_mod_two_pow]
  congr 1
  exact Nat.mod_eq_of_lt ((Nat.shiftRight_le _ _).trans_lt v.isLt)

/-- The floor of the signed quotient by `2^n` is the library's arithmetic right shift (44_register_register.md R92, decision
D11). -/
theorem shiftRight24_eq_sshiftRight (v : Word) (n : Nat) : shiftRight24 v n = v.sshiftRight n := by
  rw [shiftRight24, BitVec.sshiftRight, Int.shiftRight_eq_div_pow, Int.fdiv_eq_ediv_of_nonneg _ (by positivity)]
  rfl

/-- Settles O43: each is a one-register operation, with the shift in the library's form. -/
theorem shiftsAndClear : Obligations.ShiftsAndClear := by
  intro r1 r2 ra s h1
  have hmodify (f : Word → Word) := modifyReg_of_some f h1 s
  refine ⟨?left, ?right, hmodify fun _ => 0#24⟩
  case left =>
    rw [← shiftCount, ← rotateLeft24_eq_rotateLeft _ (shiftCount_lt r2)]
    exact hmodify fun v => rotateLeft24 v (shiftCount r2)
  case right =>
    rw [← shiftCount, ← shiftRight24_eq_sshiftRight]
    exact hmodify fun v => shiftRight24 v (shiftCount r2)

/-! ## Bad register codes -/

/-- A bad code where one register is resolved (44_register_register.md R84, decision D12). -/
theorem withReg_of_bad {r1 : Nibble} (h : 6 ≤ r1.toNat) (s : State) (k : GReg → StepResult) :
    withReg r1 s k = .next { s with pc := s.pc + 2#24 } := by
  rw [withReg, (regOfCode_eq_none_iff r1).mpr h, ← nextPC_two]
  rfl

/-- A bad code where two registers are resolved. -/
theorem withRegs_of_bad {r1 r2 : Nibble} (h : 6 ≤ r1.toNat ∨ 6 ≤ r2.toNat) (s : State) (k : GReg → GReg → StepResult) :
    withRegs r1 r2 s k = .next { s with pc := s.pc + 2#24 } := by
  rw [← regOfCode_eq_none_iff, ← regOfCode_eq_none_iff] at h
  rcases withRegs_cases r1 r2 s k with ⟨ra, rb, h1, h2, -⟩ | ⟨-, hk⟩
  · simp [h1, h2] at h
  · rw [hk, nextPC_two]
    rfl

/-- Settles O44: each of the nine resolves its register codes before it does anything else. -/
theorem badRegisterCodesAreNoOps : Obligations.BadRegisterCodesAreNoOps := by
  refine fun r1 r2 s => ⟨fun h => ?one, fun h => ?two⟩
  case one =>
    have hbad := withReg_of_bad h s
    simp only [List.forall_mem_cons]
    exact ⟨hbad _, hbad _, hbad _, by simp⟩
  case two =>
    have hbad := withRegs_of_bad h s
    simp only [List.forall_mem_cons]
    exact ⟨hbad _, hbad _, hbad _, hbad _, hbad _, hbad _, by simp⟩

end Sys2Proof.Machine
end

section
/-! Everything an instruction can answer, said once (40_execution_cycle.md R43 to R54, 60_exceptions.md R94 to R97): what a
completing one leaves behind, and why a failing one fails. -/

namespace Sys2Proof.Machine

/-! ## What an instruction can answer -/

/-- What a completing instruction leaves in `PC` (40_execution_cycle.md R54). -/
def pcAfter (i : Instr) (s : State) : Word :=
  match i with
  | .j m => effectiveAddress m s
  | .jsub m => effectiveAddress m s
  | .rsub _ => s.regL
  | .jeq m => if s.cc = 0 then effectiveAddress m s else s.nextPC m.length
  | .jgt m => if s.cc = 1 then effectiveAddress m s else s.nextPC m.length
  | .jlt m => if s.cc = -1 then effectiveAddress m s else s.nextPC m.length
  | other => s.nextPC other.length

/-- The six word stores (41_load_store.md R62 to R67). -/
def wordStores (m : MemRef) : List Instr :=
  [.sta m, .stx m, .stl m, .stb m, .sts m, .stt m]

/-- The states a completing instruction can leave: beside `PC` it writes its register, the condition code, both, or memory. -/
inductive Completes (i : Instr) (s : State) : State → Prop where
  | advance : Completes i s (s.setPc (pcAfter i s))
  | register {r : GReg} {v : Word} (hr : writtenReg i = some r) : Completes i s ((s.setReg r v).setPc (pcAfter i s))
  | compare {a b : Int} (hc : isComparison i = true) : Completes i s ((s.setCC a b).setPc (pcAfter i s))
  | registerCompare {r : GReg} {v : Word} {a b : Int} (hr : writtenReg i = some r) (hc : isComparison i = true) :
      Completes i s (((s.setReg r v).setCC a b).setPc (pcAfter i s))
  | wordStore {a : Nat} {v : Word} {t : State} (hst : storedBytes i s = some (a, 3)) (hw : s.writeWord a v = .ok t) :
      Completes i s (t.setPc (pcAfter i s))
  | byteStore {a : Nat} {v : Byte} {t : State} (hst : storedBytes i s = some (a, 1)) (hw : s.writeByte a v = .ok t) :
      Completes i s (t.setPc (pcAfter i s))

/-- Why an instruction can fail (60_exceptions.md R95 to R97). -/
inductive Fails (i : Instr) (s : State) : Fault → Prop where
  | wordOperand {m : MemRef} {e : Fault} (hi : i ∈ wordReaders m) (he : operandWord m s = .error e) : Fails i s e
  | byteOperand {m : MemRef} {e : Fault} (hi : i = .ldch m) (he : operandByte m s = .error e) : Fails i s e
  | wordStore {m : MemRef} (hi : i ∈ wordStores m) (hout : s.size ≤ (targetAddress m s).toNat + 2) :
      Fails i s (.addressError (targetAddress m s).toNat)
  | byteStore {m : MemRef} (hi : i = .stch m) (hout : s.size ≤ (targetAddress m s).toNat) :
      Fails i s (.addressError (targetAddress m s).toNat)
  | zeroOperand {m : MemRef} (hi : i = .div m) (hz : operandWord m s = .ok 0#24) : Fails i s .arithmeticError
  | zeroRegister {r1 r2 : Nibble} {ra rb : GReg} (hi : i = .divr r1 r2) (ha : regOfCode r1 = some ra)
      (hb : regOfCode r2 = some rb) (hz : s.reg ra = 0#24) : Fails i s .arithmeticError
  | noHandler (hop : i.opcode ∈ opcodesWithoutHandler) : Fails i s (.unsupportedOpcode i.opcode)

/-- Completing or failing, and never a refusal. -/
inductive Answers (i : Instr) (s : State) : StepResult → Prop where
  | next {t : State} (h : Completes i s t) : Answers i s (.next t)
  | fault {e : Fault} (h : Fails i s e) : Answers i s (.fault e)

/-! ## One lemma per shared operation -/

/-- An instruction that resolves a word operand fails with it or goes on with its value. -/
theorem answers_orRaise_operandWord {i : Instr} {s : State} {m : MemRef} {k : Word → StepResult} (hi : i ∈ wordReaders m)
    (hk : ∀ v, operandWord m s = .ok v → Answers i s (k v)) : Answers i s (orRaise (operandWord m s) k) := by
  cases h : operandWord m s with
  | ok v => exact hk v h
  | error e => exact .fault (.wordOperand hi h)

theorem answers_storeRegister {i : Instr} {s : State} {m : MemRef} {r : GReg} (hi : i ∈ wordStores m)
    (hst : storedBytes i s = some ((targetAddress m s).toNat, 3)) (hpc : pcAfter i s = s.nextPC m.length) :
    Answers i s (storeRegister r m s) := by
  rcases storeRegister_cases r m s with ⟨t, hw, h⟩ | ⟨hout, h⟩ <;> rw [h]
  · rw [← hpc]; exact .next (.wordStore hst hw)
  · exact .fault (.wordStore hi hout)

/-- A bad register code is an advance of `PC` (44_register_register.md R84). -/
theorem answers_withRegs {i : Instr} {s : State} {r1 r2 : Nibble} {k : GReg → GReg → StepResult}
    (hpc : pcAfter i s = s.nextPC 2)
    (hk : ∀ ra rb, regOfCode r1 = some ra → regOfCode r2 = some rb → Answers i s (k ra rb)) :
    Answers i s (withRegs r1 r2 s k) := by
  rcases withRegs_cases r1 r2 s k with ⟨ra, rb, ha, hb, h⟩ | ⟨-, h⟩ <;> rw [h]
  · exact hk ra rb ha hb
  · rw [← hpc]; exact .next .advance

theorem answers_withReg {i : Instr} {s : State} {r1 : Nibble} {k : GReg → StepResult} (hpc : pcAfter i s = s.nextPC 2)
    (hk : ∀ ra, regOfCode r1 = some ra → Answers i s (k ra)) : Answers i s (withReg r1 s k) := by
  rcases withReg_cases r1 s k with ⟨ra, ha, h⟩ | ⟨-, h⟩ <;> rw [h]
  · exact hk ra ha
  · rw [← hpc]; exact .next .advance

/-- DIV tests its operand for zero (42_arithmetic_compare_logic.md R73). -/
theorem answers_execDiv (m : MemRef) (s : State) : Answers (.div m) s (execDiv m s) := by
  refine answers_orRaise_operandWord (by simp [wordReaders]) fun v hv => ?_
  split
  · next hz => exact .fault (.zeroOperand rfl (by rw [hv, (s24_eq_zero_iff v).mp hz]))
  · exact .next (.register rfl)

/-- LDCH resolves a byte operand (41_load_store.md R68). -/
theorem answers_execLdch (m : MemRef) (s : State) : Answers (.ldch m) s (execLdch m s) := by
  unfold execLdch
  cases h : operandByte m s with
  | ok c => exact .next (.register rfl)
  | error e => exact .fault (.byteOperand rfl h)

/-- STCH writes one byte (41_load_store.md R69). -/
theorem answers_execStch (m : MemRef) (s : State) : Answers (.stch m) s (execStch m s) := by
  unfold execStch
  rcases s.writeByte_cases (targetAddress m s).toNat (s.regA.extractLsb' 0 8) with ⟨-, h⟩ | ⟨hout, h⟩ <;> rw [h]
  · exact .next (.byteStore rfl h)
  · exact .fault (.byteStore rfl hout)

/-- DIVR tests its divisor for zero, after the register codes (44_register_register.md R88). -/
theorem answers_execDivr (r1 r2 : Nibble) (s : State) : Answers (.divr r1 r2) s (execDivr r1 r2 s) := by
  refine answers_withRegs rfl fun ra rb ha hb => ?_
  split
  · next hz => exact .fault (.zeroRegister rfl ha hb ((s24_eq_zero_iff _).mp hz))
  · exact .next (.register hb)

/-! ## Every instruction -/

/-- All an instruction can answer. -/
theorem answers_exec (i : Instr) (s : State) : Answers i s (exec i s) := by
  cases i with
  | lda m | ldx m | ldl m | ldb m | lds m | ldt m | add m | sub m | mul m | and m | or m =>
    exact answers_orRaise_operandWord (by simp [wordReaders]) fun v _ => .next (.register rfl)
  | comp m => exact answers_orRaise_operandWord (by simp [wordReaders]) fun v _ => .next (.compare rfl)
  | tix m => exact answers_orRaise_operandWord (by simp [wordReaders]) fun v _ => .next (.registerCompare rfl rfl)
  | div m => exact answers_execDiv m s
  | ldch m => exact answers_execLdch m s
  | sta m | stx m | stl m | stb m | sts m | stt m => exact answers_storeRegister (by simp [wordStores]) rfl rfl
  | stch m => exact answers_execStch m s
  | j m | rsub m => exact .next .advance
  | jsub m => exact .next (.register rfl)
  | jeq m | jgt m | jlt m =>
    simp only [exec, execJeq, execJgt, execJlt, branchIf, decide_eq_true_eq]
    exact .next .advance
  | addr r1 r2 | subr r1 r2 | mulr r1 r2 | rmo r1 r2 => exact answers_withRegs rfl fun _ _ _ hb => .next (.register hb)
  | divr r1 r2 => exact answers_execDivr r1 r2 s
  | compr r1 r2 => exact answers_withRegs rfl fun _ _ _ _ => .next (.compare rfl)
  | shiftl r1 r2 | shiftr r1 r2 | clear r1 r2 => exact answers_withReg rfl fun _ ha => .next (.register ha)
  | _ => exact .fault (.noHandler (by simp [Instr.opcode, opcodesWithoutHandler]))

theorem completes_of_exec {i : Instr} {s t : State} (h : exec i s = .next t) : Completes i s t := by
  have ha := answers_exec i s
  rw [h] at ha
  cases ha; assumption

theorem fails_of_exec {i : Instr} {s : State} {e : Fault} (h : exec i s = .fault e) : Fails i s e := by
  have ha := answers_exec i s
  rw [h] at ha
  cases ha; assumption

end Sys2Proof.Machine
end

section
/-! Proofs about the invariant (10_state.md R10, R12, 20_memory.md R16, R27): the reset state meets it, each update of the
state keeps it, and so every step, every host transaction and every run of the host do. -/

namespace Sys2Proof.Machine

/-! ## Each update keeps the invariant -/

/-- Only the memory size, memory and `SW` matter to the invariant. -/
theorem State.Inv.of_eq {s t : State} (h : s.Inv) (hwords : t.memWords = s.memWords) (hmem : t.mem = s.mem)
    (hsw : t.swLegal) : t.Inv where
  memWords_pos := hwords ▸ h.memWords_pos
  memWords_le := hwords ▸ h.memWords_le
  mem_wf := hmem ▸ h.mem_wf
  mem_inside := by
    rw [hmem, State.size_eq, hwords]
    exact h.mem_inside
  sw_legal := hsw

theorem State.Inv.setReg {s : State} (h : s.Inv) (r : GReg) (v : Word) : (s.setReg r v).Inv :=
  h.of_eq (by simp) (by simp) (by simpa [State.swLegal] using h.sw_legal)

theorem State.Inv.setPc {s : State} (h : s.Inv) (v : Word) : (s.setPc v).Inv := h.of_eq rfl rfl h.sw_legal

/-- The carrier of each condition code is one of the three values (10_state.md R10). -/
theorem swLegal_setCC (s : State) (a b : Int) : (s.setCC a b).swLegal := by
  rw [State.swLegal, State.sw_setCC]
  rcases ccOf_mem a b with h | h | h <;> rw [h] <;> decide

theorem State.Inv.setCC {s : State} (h : s.Inv) (a b : Int) : (s.setCC a b).Inv := h.of_eq rfl rfl (swLegal_setCC s a b)

/-- Storing a byte that exists keeps memory canonical and inside its bounds (20_memory.md R16). -/
theorem State.Inv.setMemByte {s : State} (h : s.Inv) {a : Nat} (ha : a < s.size) (v : Byte) : (s.setMemByte a v).Inv where
  memWords_pos := h.memWords_pos
  memWords_le := h.memWords_le
  mem_wf := State.mem_wf_setMemByte h.mem_wf a v
  mem_inside c hc := by
    rw [State.size_setMemByte]
    rcases Memory.mem_setByte hc with ⟨rfl, -⟩ | hc
    · exact ha
    · exact h.mem_inside c hc
  sw_legal := h.sw_legal

theorem State.Inv.writeByte {s t : State} (h : s.Inv) {a : Nat} {v : Byte} (hw : s.writeByte a v = .ok t) : t.Inv := by
  rcases s.writeByte_cases a v with ⟨ha, he⟩ | ⟨-, he⟩ <;> rw [he] at hw <;> cases hw
  exact h.setMemByte ha v

theorem State.Inv.writeWord {s t : State} (h : s.Inv) {a : Nat} {v : Word} (hw : s.writeWord a v = .ok t) : t.Inv := by
  rcases s.writeWord_cases a v with ⟨ha, he⟩ | ⟨-, he⟩ <;> rw [he] at hw <;> cases hw
  have h0 := h.setMemByte (a := a) (by omega) (wordByte v 0)
  have h1 := h0.setMemByte (a := a + 1) (by rw [State.size_setMemByte]; omega) (wordByte v 1)
  exact h1.setMemByte (by rw [State.size_setMemByte, State.size_setMemByte]; exact ha) (wordByte v 2)

theorem State.memWords_of_writeByte {s t : State} {a : Nat} {v : Byte} (hw : s.writeByte a v = .ok t) :
    t.memWords = s.memWords := by
  rcases s.writeByte_cases a v with ⟨-, he⟩ | ⟨-, he⟩ <;> rw [he] at hw <;> cases hw
  rfl

theorem State.memWords_of_writeWord {s t : State} {a : Nat} {v : Word} (hw : s.writeWord a v = .ok t) :
    t.memWords = s.memWords := by
  rw [State.eq_with_mem_of_writeWord hw]

/-! ## Steps and transactions -/

/-- The memory size never changes (10_state.md R5). -/
theorem Completes.memWords_eq {i : Instr} {s t : State} (h : Completes i s t) : t.memWords = s.memWords := by
  cases h with
  | advance => rfl
  | register _ | registerCompare _ _ => simp
  | compare _ => rfl
  | wordStore _ hw => exact (State.memWords_setPc _ _).trans (State.memWords_of_writeWord hw)
  | byteStore _ hw => exact (State.memWords_setPc _ _).trans (State.memWords_of_writeByte hw)

theorem Completes.inv {i : Instr} {s t : State} (h : Completes i s t) (hs : s.Inv) : t.Inv := by
  cases h with
  | advance => exact hs.setPc _
  | register _ => exact (hs.setReg _ _).setPc _
  | compare _ => exact (hs.setCC _ _).setPc _
  | registerCompare _ _ => exact ((hs.setReg _ _).setCC _ _).setPc _
  | wordStore _ hw => exact (hs.writeWord hw).setPc _
  | byteStore _ hw => exact (hs.writeByte hw).setPc _

/-- Settles O57: by what the fetched instruction can leave behind. -/
theorem stepKeepsInvariant : Obligations.StepKeepsInvariant := by
  intro s t hs hstep
  rcases step_cases s with ⟨i, -, he⟩ | ⟨e, -, he⟩ <;> rw [he] at hstep
  · have hc := completes_of_exec hstep
    exact ⟨hc.inv hs, hc.memWords_eq⟩
  · cases hstep

/-- The host's reset keeps the memory size and gives memory that is empty or as before (70_reset_and_hazards.md R108). -/
theorem State.Inv.hostReset {s : State} (h : s.Inv) (clear : Bool) : (s.hostReset clear).Inv where
  memWords_pos := h.memWords_pos
  memWords_le := h.memWords_le
  mem_wf := State.mem_wf_hostReset h.mem_wf clear
  mem_inside c hc := by
    cases clear with
    | false => exact h.mem_inside c hc
    | true => cases hc
  sw_legal := .inr (.inl rfl)

theorem State.Inv.transact_step {s : State} (h : s.Inv) :
    (s.transact .step).2.Inv ∧ (s.transact .step).2.memWords = s.memWords := by
  simp only [State.transact]
  cases hstep : step s with
  | next t => exact stepKeepsInvariant s t h hstep
  | fault e => exact ⟨h, rfl⟩
  | refused r => exact ⟨h, rfl⟩

theorem State.Inv.transact_loadWord {s : State} (h : s.Inv) (addr v : Int) :
    (s.transact (.loadWord addr v)).2.Inv ∧ (s.transact (.loadWord addr v)).2.memWords = s.memWords := by
  rcases s.transact_loadWord_cases addr v with ⟨a, t, -, -, hw, ht⟩ | ⟨-, hf⟩
  · rw [ht]; exact ⟨h.writeWord hw, State.memWords_of_writeWord hw⟩
  · rw [hf]; exact ⟨h, rfl⟩

/-- Settles O59: a load is a word write or fails, a step by O57, a reset clears, and a read changes nothing. -/
theorem hostTransactionKeepsInvariant : Obligations.HostTransactionKeepsInvariant := by
  intro s op h
  cases op with
  | loadWord addr v => exact h.transact_loadWord addr v
  | step => exact h.transact_step
  | reset clear => exact ⟨h.hostReset clear, rfl⟩
  | readUnsigned r | readSigned r | readNamed name | readByte addr | readWord addr => exact ⟨h, rfl⟩

/-! ## Runs of the host -/

theorem State.Inv.transactAll {s : State} (h : s.Inv) (ops : List HostOp) :
    (s.transactAll ops).Inv ∧ (s.transactAll ops).memWords = s.memWords := by
  induction ops generalizing s with
  | nil => exact ⟨h, rfl⟩
  | cons op rest ih =>
    obtain ⟨hinv, hwords⟩ := hostTransactionKeepsInvariant s op h
    obtain ⟨hinv', hwords'⟩ := ih hinv
    exact ⟨hinv', hwords'.trans hwords⟩

/-- A zeroed machine of a permitted size meets the invariant (10_state.md R15, decision D15). -/
theorem State.inv_zeroed {words : Nat} (hpos : 1 ≤ words) (hle : words ≤ Config.maxMemWords) :
    ({ State.reset with memWords := words } : State).Inv where
  memWords_pos := hpos
  memWords_le := hle
  mem_wf := State.mem_wf_reset
  mem_inside _ hc := by cases hc
  sw_legal := .inr (.inl rfl)

/-- Settles O56: the reset state is the zeroed machine of the largest permitted size. -/
theorem resetStateMeetsInvariant : Obligations.ResetStateMeetsInvariant :=
  State.inv_zeroed (by decide) (by decide)

/-- Settles O58: a constructed machine is a zeroed one, and the host's transactions keep the invariant one after another. -/
theorem everyHostRunKeepsInvariant : Obligations.EveryHostRunKeepsInvariant := by
  intro words t ops h
  rcases construct_cases words with ⟨-, hc⟩ | ⟨hpos, hle, hc⟩ | ⟨-, hc⟩ <;> rw [hc] at h <;> cases h
  have hzero : ({ State.reset with memWords := words.toNat } : State).Inv := 
    State.inv_zeroed (by omega) (Int.toNat_le.mpr hle)
  obtain ⟨hinv, hwords⟩ := hzero.transactAll ops
  refine ⟨hinv, ?_⟩
  rw [hwords]
  exact Int.toNat_of_nonneg (by omega)

end Sys2Proof.Machine
end

section
/-! Proofs about errors (60_exceptions.md R94 to R97): which error an instruction, and a step, can end in. -/

namespace Sys2Proof.Machine

/-! ## What each error says of the instruction -/

/-- An operand is unreadable only where memory is read (40_execution_cycle.md R49). -/
theorem operandMode_ne_immediate_of_error {m : MemRef} {s : State} {e : Fault} (h : operandWord m s = .error e) :
    operandMode m.flags ≠ .immediate := by
  intro hm
  simp [operandWord, hm] at h

theorem operandMode_ne_immediate_of_byte_error {m : MemRef} {s : State} {e : Fault} (h : operandByte m s = .error e) :
    operandMode m.flags ≠ .immediate := by
  intro hm
  simp [operandByte, hm] at h

/-- An unreadable byte operand is an `AddressError` at a byte or a pointer word that leaves memory (40_execution_cycle.md
R51). -/
theorem operandByte_eq_error_outside {m : MemRef} {s : State} {e : Fault} (h : operandByte m s = .error e) :
    ∃ a : Nat, e = .addressError a ∧ s.size ≤ a + 2 := by
  rcases operandByte_cases m s with ⟨-, ho⟩ | ⟨-, ho⟩ | ⟨-, ⟨p, -, ho⟩ | ⟨e', hr, ho⟩⟩ <;> rw [ho] at h
  · cases h
  · obtain ⟨he, hout⟩ := State.readByte_eq_error h
    exact ⟨_, he, by omega⟩
  · obtain ⟨he, hout⟩ := State.readByte_eq_error h
    exact ⟨_, he, by omega⟩
  · cases h; exact ⟨_, State.readWord_eq_error hr⟩

/-- An `UnsupportedOpcode` names the instruction's opcode, one without a handler (60_exceptions.md R96). -/
theorem Fails.opcode_of_unsupportedOpcode {i : Instr} {s : State} {op : Byte} (h : Fails i s (.unsupportedOpcode op)) :
    i.opcode = op ∧ op ∈ opcodesWithoutHandler := by
  cases h with
  | wordOperand _ he => obtain ⟨a, ha⟩ := operandWord_eq_error he; cases ha
  | byteOperand _ he => obtain ⟨a, ha⟩ := operandByte_eq_error he; cases ha
  | noHandler hop => exact ⟨rfl, hop⟩

/-- An `ArithmeticError` has a zero divisor (60_exceptions.md R97). -/
theorem Fails.zero_of_arithmeticError {i : Instr} {s : State} (h : Fails i s .arithmeticError) :
    (∃ m, i = .div m ∧ operandWord m s = .ok 0#24) ∨
    (∃ r1 r2 ra rb, i = .divr r1 r2 ∧ regOfCode r1 = some ra ∧ regOfCode r2 = some rb ∧ s.reg ra = 0#24) := by
  cases h with
  | wordOperand _ he => obtain ⟨a, ha⟩ := operandWord_eq_error he; cases ha
  | byteOperand _ he => obtain ⟨a, ha⟩ := operandByte_eq_error he; cases ha
  | zeroOperand hi hz => exact .inl ⟨_, hi, hz⟩
  | zeroRegister hi ha hb hz => exact .inr ⟨_, _, _, _, hi, ha, hb, hz⟩

/-- An instruction fails with one of three kinds (60_exceptions.md R94). -/
theorem Fails.kind {i : Instr} {s : State} {e : Fault} (h : Fails i s e) :
    (∃ a : Nat, e = .addressError a ∧ s.size ≤ a + 2) ∨ (∃ op, e = .unsupportedOpcode op) ∨ e = .arithmeticError := by
  cases h with
  | wordOperand _ he => exact .inl (operandWord_eq_error_outside he)
  | byteOperand _ he => exact .inl (operandByte_eq_error_outside he)
  | wordStore _ hout => exact .inl ⟨_, rfl, hout⟩
  | byteStore _ hout => exact .inl ⟨_, rfl, by omega⟩
  | zeroOperand _ _ | zeroRegister _ _ _ _ => exact .inr (.inr rfl)
  | noHandler _ => exact .inr (.inl ⟨_, rfl⟩)

/-! ## The obligations -/

theorem exec_of_opcodesWithoutHandler {i : Instr} (h : i.opcode ∈ opcodesWithoutHandler) (s : State) :
    exec i s = .fault (.unsupportedOpcode i.opcode) := by
  cases i <;> simp [Instr.opcode, opcodesWithoutHandler] at h <;> rfl

/-- Settles O45: a fetch fails only with an `AddressError`, so an `UnsupportedOpcode` comes from the fetched instruction. -/
theorem unsupportedOpcodesFaultAfterFetch : Obligations.UnsupportedOpcodesFaultAfterFetch := by
  refine ⟨fun i s h => exec_of_opcodesWithoutHandler h s,
    fun s op => ⟨fun h => ?raised, fun ⟨i, hf, hop, hmem⟩ => ?raises⟩⟩
  case raised =>
    rcases step_cases s with ⟨i, hf, he⟩ | ⟨e, hf, he⟩ <;> rw [he] at h
    · exact ⟨i, hf, (fails_of_exec h).opcode_of_unsupportedOpcode⟩
    · obtain ⟨k, -, hk, -⟩ := State.fetch_eq_error hf
      subst hk
      cases h
  case raises =>
    subst hop
    rw [step_of_fetch_ok hf, exec_of_opcodesWithoutHandler hmem]

/-- Settles O46: by why an instruction can fail, and the tests for zero of DIV and DIVR. -/
theorem arithmeticErrorExactlyOnZeroDivisor : Obligations.ArithmeticErrorExactlyOnZeroDivisor := by
  refine fun i s => ⟨fun h => (fails_of_exec h).zero_of_arithmeticError, ?_⟩
  rintro (⟨m, rfl, hv⟩ | ⟨r1, r2, ra, rb, rfl, h1, h2, hz⟩)
  · exact (execDiv_of_operandWord_ok hv).trans (if_pos rfl)
  · exact (execDivr_of_some h1 h2 s).trans (if_pos hz)

/-- Settles O47: a fetch fails at a byte that does not exist, and an instruction with one of the three kinds. -/
theorem stepFaultsAreOneOfThreeKinds : Obligations.StepFaultsAreOneOfThreeKinds := by
  intro s e h
  rcases step_cases s with ⟨i, -, he⟩ | ⟨e', hf, he⟩ <;> rw [he] at h
  · exact (fails_of_exec h).kind
  · cases h
    obtain ⟨k, -, hk, hout, -⟩ := State.fetch_eq_error hf
    exact .inl ⟨s.pc.toNat + k, hk, by omega⟩

/-- Settles O48: of the reasons to fail, only the unreadable operand and the store that leaves memory are `AddressError`s. -/
theorem addressErrorsComeOnlyFromMemoryAccesses : Obligations.AddressErrorsComeOnlyFromMemoryAccesses := by
  intro i s a h
  cases fails_of_exec h with
  | wordOperand hi he =>
    refine ⟨_, .inl ⟨?_, operandMode_ne_immediate_of_error he⟩⟩
    simp only [wordReaders, List.mem_cons, List.not_mem_nil, or_false] at hi ⊢
    tauto
  | byteOperand hi he => exact ⟨_, .inl ⟨by simp [hi], operandMode_ne_immediate_of_byte_error he⟩⟩
  | wordStore hi _ => exact ⟨_, .inr ⟨List.mem_append_left [_] hi, rfl⟩⟩
  | byteStore hi _ => exact ⟨_, .inr ⟨by simp [hi], rfl⟩⟩

/-- Settles O49: an instruction completes or fails, and so does a step. -/
theorem noStepIsRefused : Obligations.NoStepIsRefused := by
  intro s r h
  rcases step_cases s with ⟨i, -, he⟩ | ⟨e, -, he⟩ <;> rw [he] at h
  · have ha := answers_exec i s
    rw [h] at ha
    cases ha
  · cases h

end Sys2Proof.Machine
end

section
/-! Proofs about what every instruction leaves alone (40_execution_cycle.md R54, 10_state.md R6, R9, R12, 20_memory.md R23):
each follows from the states a completing instruction can leave. -/

namespace Sys2Proof.Machine

theorem Completes.pc_eq {i : Instr} {s t : State} (h : Completes i s t) : t.pc = pcAfter i s := by
  cases h <;> rfl

/-- Settles O51: every completing instruction leaves `pcAfter` in `PC`. -/
theorem programCounterAfterEveryInstruction : Obligations.ProgramCounterAfterEveryInstruction :=
  fun _ _ _ h => (completes_of_exec h).pc_eq

theorem State.reg_of_writeWord {s t : State} {a : Nat} {v : Word} (hw : s.writeWord a v = .ok t) (r : GReg) :
    t.reg r = s.reg r := by
  rw [State.eq_with_mem_of_writeWord hw]
  cases r <;> rfl

theorem State.reg_of_writeByte {s t : State} {a : Nat} {v : Byte} (hw : s.writeByte a v = .ok t) (r : GReg) :
    t.reg r = s.reg r := by
  rw [State.eq_with_mem_of_writeByte hw]
  cases r <;> rfl

/-- Settles O52: a register other than the written one is as before under every update. -/
theorem registersChangeOnlyWhereWritten : Obligations.RegistersChangeOnlyWhereWritten := by
  intro i s t r h hr
  have hne {q : GReg} (hq : writtenReg i = some q) : r ≠ q := fun hrq => hr (hrq ▸ hq)
  cases completes_of_exec h with
  | advance | compare _ => simp
  | register hq | registerCompare hq _ => simp [State.reg_setReg_of_ne _ _ (hne hq)]
  | wordStore _ hw => simpa using State.reg_of_writeWord hw r
  | byteStore _ hw => simpa using State.reg_of_writeByte hw r

/-- Settles O53: `SW` is written by a comparison only. -/
theorem onlyComparisonsChangeConditionCode : Obligations.OnlyComparisonsChangeConditionCode := by
  intro i s t h hi
  have hsw : t.sw = s.sw := by
    cases completes_of_exec h with
    | advance => rfl
    | register _ => simp
    | compare hc | registerCompare _ hc => simp [hi] at hc
    | wordStore _ hw => rw [State.sw_setPc, State.eq_with_mem_of_writeWord hw]
    | byteStore _ hw => rw [State.sw_setPc, State.eq_with_mem_of_writeByte hw]
  exact ⟨hsw, by rw [State.cc, hsw, State.cc]⟩

/-- Settles O54: memory is written by a store only, and only inside its span. -/
theorem memoryChangesOnlyWhereStored : Obligations.MemoryChangesOnlyWhereStored := by
  intro i s t hwf h
  have hc := completes_of_exec h
  refine ⟨hc.memWords_eq, ?_⟩
  cases hc with
  | advance | compare _ => exact ⟨fun _ => rfl, fun _ _ _ _ _ => rfl⟩
  | register _ | registerCompare _ _ => simp
  | wordStore hst hw =>
    refine ⟨fun hnone => by simp [hst] at hnone, fun a n b hsome hb => ?_⟩
    cases hst.symm.trans hsome
    rw [State.mem_setPc]
    exact State.byteAt_writeWord_of_outside hwf hw (by omega)
  | byteStore hst hw =>
    refine ⟨fun hnone => by simp [hst] at hnone, fun a n b hsome hb => ?_⟩
    cases hst.symm.trans hsome
    rw [State.mem_setPc, State.byteAt_writeByte hwf hw, if_neg (by omega)]

end Sys2Proof.Machine
end

section
/-! Proofs that only the conditional branches depend on the condition code (10_state.md R9): the answers of one instruction
from two states that differ in `SW` only. -/

namespace Sys2Proof.Machine

/-! ## Answers from two states that differ in `SW` -/

/-- The answers `r` from a state with `SW = v` and `r'` from the same state with `SW = w`: `SW` is left as it was in both
runs, or set to one value, and all else is the same. -/
inductive SameButSw (v w : Word) : StepResult → StepResult → Prop where
  | kept {t : State} (h : t.sw = v) : SameButSw v w (.next t) (.next (t.setSw w))
  | written {t : State} : SameButSw v w (.next t) (.next t)
  | fault {e : Fault} : SameButSw v w (.fault e) (.fault e)

/-! ## `SW` in the operations -/

@[simp] theorem effectiveAddress_setSw (m : MemRef) (s : State) (w : Word) :
    effectiveAddress m (s.setSw w) = effectiveAddress m s := rfl

@[simp] theorem operandWord_setSw (m : MemRef) (s : State) (w : Word) : operandWord m (s.setSw w) = operandWord m s := rfl

@[simp] theorem operandByte_setSw (m : MemRef) (s : State) (w : Word) : operandByte m (s.setSw w) = operandByte m s := rfl

theorem State.setReg_setSw (s : State) (r : GReg) (v w : Word) : (s.setSw w).setReg r v = (s.setReg r v).setSw w := by
  cases r <;> rfl

theorem SameButSw.orRaise {α : Type} {v w : Word} (r : Except Fault α) {k k' : α → StepResult}
    (h : ∀ a, SameButSw v w (k a) (k' a)) : SameButSw v w (orRaise r k) (orRaise r k') := by
  cases r with
  | ok a => exact h a
  | error e => exact .fault

/-- A register and `PC` written alike in both runs. -/
theorem sameButSw_setReg_setPc (s : State) (w : Word) (r : GReg) (v p : Word) :
    SameButSw s.sw w (.next ((s.setReg r v).setPc p)) (.next (((s.setSw w).setReg r v).setPc p)) := by
  rw [State.setReg_setSw]
  exact .kept (State.sw_setReg s r v)

theorem State.inBounds_setSw (s : State) (w : Word) (a len : Nat) :
    (s.setSw w).inBounds a len = s.inBounds a len := rfl

theorem State.writeWord_setSw (s : State) (w : Word) (a : Nat) (v : Word) :
    (s.setSw w).writeWord a v = (s.writeWord a v).map fun t => t.setSw w := by
  rw [State.writeWord, State.writeWord, State.inBounds_setSw]
  split <;> rfl

theorem State.writeByte_setSw (s : State) (w : Word) (a : Nat) (v : Byte) :
    (s.setSw w).writeByte a v = (s.writeByte a v).map fun t => t.setSw w := by
  rw [State.writeByte, State.writeByte, State.inBounds_setSw]
  split <;> rfl

/-- A write of memory made alike in both runs. -/
theorem sameButSw_write {s : State} {w p : Word} {r r' : Except Fault State} (hr' : r' = r.map fun t => t.setSw w)
    (hsw : ∀ t, r = .ok t → t.sw = s.sw) :
    SameButSw s.sw w (orRaise r fun t => .next (t.setPc p)) (orRaise r' fun t => .next (t.setPc p)) := by
  subst hr'
  cases r with
  | ok t => exact .kept (hsw t rfl)
  | error e => exact .fault

theorem sameButSw_storeRegister (r : GReg) (m : MemRef) (s : State) (w : Word) :
    SameButSw s.sw w (storeRegister r m s) (storeRegister r m (s.setSw w)) := by
  rw [storeRegister, storeRegister, State.reg_setSw]
  refine sameButSw_write (s.writeWord_setSw w _ _) fun t ht => ?_
  rw [State.eq_with_mem_of_writeWord ht]

theorem sameButSw_execStch (m : MemRef) (s : State) (w : Word) :
    SameButSw s.sw w (execStch m s) (execStch m (s.setSw w)) := by
  refine sameButSw_write (s.writeByte_setSw w _ _) fun t ht => ?_
  rw [State.eq_with_mem_of_writeByte ht]

theorem sameButSw_withReg {s : State} {w : Word} (r1 : Nibble) {k k' : GReg → StepResult}
    (h : ∀ ra, SameButSw s.sw w (k ra) (k' ra)) : SameButSw s.sw w (withReg r1 s k) (withReg r1 (s.setSw w) k') := by
  cases hr : regOfCode r1 with
  | some ra => rw [withReg_of_some hr, withReg_of_some hr]; exact h ra
  | none => rw [withReg, withReg, hr]; exact .kept rfl

theorem sameButSw_withRegs {s : State} {w : Word} (r1 r2 : Nibble) {k k' : GReg → GReg → StepResult}
    (h : ∀ ra rb, SameButSw s.sw w (k ra rb) (k' ra rb)) :
    SameButSw s.sw w (withRegs r1 r2 s k) (withRegs r1 r2 (s.setSw w) k') := by
  unfold withRegs
  cases regOfCode r1 with
  | none => exact .kept rfl
  | some ra =>
    cases regOfCode r2 with
    | none => exact .kept rfl
    | some rb => exact h ra rb

/-- What an instruction other than a conditional branch answers does not depend on `SW`. -/
theorem sameButSw_exec {i : Instr} (hi : isConditionalBranch i = false) (s : State) (w : Word) :
    SameButSw s.sw w (exec i s) (exec i (s.setSw w)) := by
  cases i with
  | lda m | ldx m | ldl m | ldb m | lds m | ldt m | add m | sub m | mul m | and m | or m =>
    exact .orRaise (operandWord m s) fun v => .kept rfl
  | ldch m => exact .orRaise (operandByte m s) fun c => .kept rfl
  | comp m | tix m => exact .orRaise (operandWord m s) fun v => .written
  | div m =>
    refine .orRaise (operandWord m s) fun v => ?_
    split
    · exact .fault
    · exact .kept rfl
  | sta m | stx m | stl m | stb m | sts m | stt m => exact sameButSw_storeRegister _ m s w
  | stch m => exact sameButSw_execStch m s w
  | j m | rsub m | jsub m => exact .kept rfl
  | jeq m | jgt m | jlt m => cases hi
  | addr r1 r2 | subr r1 r2 | mulr r1 r2 | rmo r1 r2 =>
    refine sameButSw_withRegs r1 r2 fun ra rb => ?_
    rw [State.reg_setSw, State.reg_setSw]
    exact sameButSw_setReg_setPc s w rb _ _
  | divr r1 r2 =>
    refine sameButSw_withRegs r1 r2 fun ra rb => ?_
    rw [State.reg_setSw, State.reg_setSw]
    split
    · exact .fault
    · exact sameButSw_setReg_setPc s w rb _ _
  | compr r1 r2 =>
    refine sameButSw_withRegs r1 r2 fun ra rb => ?_
    rw [State.reg_setSw, State.reg_setSw]
    exact .written
  | shiftl r1 r2 | shiftr r1 r2 | clear r1 r2 =>
    refine sameButSw_withReg r1 fun ra => ?_
    rw [State.reg_setSw]
    exact sameButSw_setReg_setPc s w ra _ _
  | _ => exact .fault

/-- Settles O55: by the answers from the two states. -/
theorem onlyConditionalBranchesReadConditionCode : Obligations.OnlyConditionalBranchesReadConditionCode := by
  intro i s w hi
  have hsame : SameButSw s.sw w (exec i s) (exec i { s with sw := w }) := sameButSw_exec hi s w
  refine ⟨fun t ht => ?completes, fun e he => ?fails⟩
  case completes =>
    rw [ht] at hsame
    generalize exec i { s with sw := w } = r at hsame ⊢
    cases hsame with
    | kept h => exact ⟨_, rfl, rfl, .inr ⟨rfl, h⟩⟩
    | written => exact ⟨_, rfl, rfl, .inl rfl⟩
  case fails =>
    rw [he] at hsame
    generalize exec i { s with sw := w } = r at hsame ⊢
    cases hsame
    rfl

end Sys2Proof.Machine
end
